-- ==== Sys2Proof/Word.lean ====
section
/-! DEFINITION. The word and byte types of the register bus and of BUF, and the plainest operations on
them (00_scope.md rule R10, 10_state.md rules R33 and R34). -/

namespace Sys2Proof

/-- A 32-bit word: a working register, a bus datum, a command word (R10, R21, R28). -/
abbrev Word := BitVec 32

/-- A byte of BUF or of the two-wire bus (R10, R27). -/
abbrev Byte := BitVec 8

/-- `zext_32(b)` (R10), the extension of a byte written to DATAOUT (R33). -/
def Byte.toWord (b : Byte) : Word := b.setWidth 32

/-- `v[7:0]` (R10), the byte SEQ takes out of a DATAIN word (R34). -/
def Word.lowByte (v : Word) : Byte := v.extractLsb' 0 8

/-- `v[15:8]` (R10), the high address byte of two-byte addressing (R55). -/
def Word.highByte (v : Word) : Byte := v.extractLsb' 8 8

end Sys2Proof
end

