-- ==== Sys2Proof/Config.lean ====
section
/-! DEFINITION. The parameters of one instance of the hardware (00_scope.md rules R7 to R9), the register
names with their offsets (20_memory.md rules R51 and R52), the constants SEQ writes, and the free values the
spec leaves open. -/

namespace Sys2Proof

/-- The ten registers on the register bus: the nine of the controller (R28) and RSTCTRL (R38). -/
inductive Reg where
  | config | clkdiv | devaddr | addr | dataout | datain | status | startxfr | bytecnt | rstctrl
  deriving DecidableEq, Repr

/-- The registers SEQ writes: those marked "write" in R51, and RSTCTRL (R54). -/
inductive OutReg where
  | config | clkdiv | devaddr | dataout | startxfr | bytecnt | rstctrl
  deriving DecidableEq, Repr

/-- The registers SEQ reads: those marked "read" in R51, and RSTCTRL (R54). -/
inductive InReg where
  | status | datain | rstctrl
  deriving DecidableEq, Repr

/-- The register a write goes to. -/
def OutReg.reg : OutReg → Reg
  | .config => .config
  | .clkdiv => .clkdiv
  | .devaddr => .devaddr
  | .dataout => .dataout
  | .startxfr => .startxfr
  | .bytecnt => .bytecnt
  | .rstctrl => .rstctrl

/-- The register a read comes from. -/
def InReg.reg : InReg → Reg
  | .status => .status
  | .datain => .datain
  | .rstctrl => .rstctrl

/-- One word for each writable controller register: the shape of the shadows (R28) and of `CTRL_RESET`
(R7, R40). A record and no function, so that states stay plain data. -/
structure CtrlRegs where
  config : Word
  clkdiv : Word
  devaddr : Word
  addr : Word
  dataout : Word
  startxfr : Word
  bytecnt : Word
  deriving DecidableEq, Repr

/-- The board variant flag (R7). -/
inductive Board where
  | prod | sim
  deriving DecidableEq, Repr

/-- The parameters of R7 that are OPEN. They are constants of one instance (R8): `Machine.State` carries the
record because a step has no other argument, and no step changes it (notes/assumptions/1.md). -/
structure Config where
  /-- `ADDR_BYTES`, legal values 1 and 2 (R7). -/
  addrBytes : Nat
  /-- `BOARD` (R7). -/
  board : Board
  /-- `CLKDIV_SIM` (R7). -/
  clkdivSim : Nat
  /-- `TIME_UNIT`: no rule depends on it (R7, R104). -/
  timeUnit : Nat
  /-- `I2C_BASE` (R7, R52). -/
  i2cBase : Nat
  /-- `RSTCTRL_ADDR` (R7, R52). -/
  rstctrlAddr : Nat
  /-- `I2C_RST_MASK` (R7). -/
  rstMask : Word
  /-- `BUF_SIZE` (R7). -/
  bufSize : Nat
  /-- `CTRL_RESET` (R7, R40). -/
  ctrlReset : CtrlRegs
  deriving DecidableEq, Repr

namespace Config

/-- `CLKDIV_PROD` = 375 (R7). -/
def clkdivProd : Nat := 375

/-- `CLKDIV`, the divider in use (R7). -/
def clkdiv (c : Config) : Nat :=
  match c.board with
  | .prod => clkdivProd
  | .sim => c.clkdivSim

/-- `MAX_BUSY_LOOP = CLKDIV * 25`, over the natural numbers (R7, R9). -/
def maxBusyLoop (c : Config) : Nat := c.clkdiv * 25

/-- `BUSY_LOOP = CLKDIV * 30`, over the natural numbers (R7, R9). -/
def busyLoop (c : Config) : Nat := c.clkdiv * 30

/-- `ADDR_BYTES` as a word, for the sum `TN + ADDR_BYTES` (R108). -/
def addrWord (c : Config) : Word := BitVec.ofNat 32 c.addrBytes

/-- The divider as SEQ writes it: `zext_32(CLKDIV)` (R30, R106). -/
def clkdivWord (c : Config) : Word := BitVec.ofNat 32 c.clkdiv

/-- `SIZE` of ENV_IDEAL's EEPROM: 2048 or 65536 bytes (R62, R66). -/
def eepromSize (c : Config) : Nat := if c.addrBytes = 1 then 2048 else 65536

/-- The parameter ranges: `ADDR_BYTES` is 1 or 2 and `CLKDIV` in 1..0xFFFF (R9, R194); `BUF_SIZE` at least 16
(R7) and below 2^32 - 2 (R101); exactly one bit of `I2C_RST_MASK` set (R7); the bases aligned and the ten
addresses distinct (R52). -/
abbrev Valid (c : Config) : Prop :=
  (c.addrBytes = 1 ∨ c.addrBytes = 2) ∧
  (1 ≤ c.clkdiv ∧ c.clkdiv ≤ 0xFFFF) ∧
  (16 ≤ c.bufSize ∧ c.bufSize < 2 ^ 32 - 2) ∧
  (c.rstMask ≠ 0#32 ∧ c.rstMask &&& (c.rstMask - 1#32) = 0#32) ∧
  (c.i2cBase % 4 = 0 ∧ c.rstctrlAddr % 4 = 0) ∧
  (c.rstctrlAddr < c.i2cBase ∨ c.i2cBase + 0x24 ≤ c.rstctrlAddr)

/-- `CFG_DEFAULT` (R7, R29). -/
def cfgDefault : Word := 0x000000FA#32

/-- `START_WRITE` (R7, R36). -/
def startWrite : Word := 0x00000000#32

/-- `START_READ` (R7, R36). -/
def startRead : Word := 0x00000001#32

/-- `DEV_BASE`, the base device address before justification (R7). -/
def devBase : Word := 0x50#32

/-- `T_RESET_SETTLE` in time-units (R7). -/
def tResetSettle : Nat := 500

/-- `T_WRITE_CYCLE` in time-units (R7). -/
def tWriteCycle : Nat := 5000

/-- `RD_BLOCK` (R7). -/
def rdBlock : Word := 16#32

/-- `WR_BLOCK` (R7). -/
def wrBlock : Word := 8#32

/-- FREE VALUE: the `n`-th answer of ENV beyond the answers a state lists (R64, notes/assumptions/2.md). -/
opaque envFree : Nat → Word

/-- FREE VALUE: what `BUF[i]` holds until HOST or SEQ writes it (R27, U1, notes/assumptions/3.md). -/
opaque bufFree : Nat → Byte

/-- FREE VALUE: what a cell of ENV_IDEAL's EEPROM holds until it is written (R66, notes/assumptions/13.md). -/
opaque eepromFree : Nat → Byte

/-- FREE VALUE: `CTRL_RESET` of the instance that `State.reset` describes (R40, U11, notes/assumptions/4.md). -/
opaque ctrlResetFree : Reg → Word

/-- FREE VALUE: RSTCTRL at power-on (R40, notes/assumptions/4.md). -/
opaque rstctrlFree : Word

end Config

/-- `off(R)` for a controller register (R51); RSTCTRL lies outside the controller's window (R38). -/
def Reg.offset : Reg → Option Nat
  | .config => some 0x00
  | .clkdiv => some 0x04
  | .devaddr => some 0x08
  | .addr => some 0x0C
  | .dataout => some 0x10
  | .datain => some 0x14
  | .status => some 0x18
  | .startxfr => some 0x1C
  | .bytecnt => some 0x20
  | .rstctrl => none

/-- The bus address of a register: `I2C_BASE + off(R)`, or `RSTCTRL_ADDR` (R52, R54). -/
def Reg.busAddr (c : Config) (r : Reg) : Nat :=
  match r.offset with
  | some o => c.i2cBase + o
  | none => c.rstctrlAddr

end Sys2Proof
end

