-- ==== Sys2Proof/Syntax.lean ====
section
/-! DEFINITION. The nine commands (30_encoding.md rules R72 to R74), one constructor per row of the opcode table.
Every command carries both operand words of its format `C3` (R73), used or ignored, because acceptance latches
both (R71). -/

namespace Sys2Proof

/-- A command. `address` is `CW1`, `length` is `CW2` (R73, R75). -/
inductive Instr where
  /-- INIT; both operands ignored (R73, R160). -/
  | init (address length : Word)
  /-- READ `<address>, <length>` (R162). -/
  | read (address length : Word)
  /-- WRITE `<address>, [payload]`; LENGTH is the payload's size (R164). -/
  | write (address length : Word)
  /-- DUMP; both operands ignored (R73, R166). -/
  | dump (address length : Word)
  /-- BUSW `<address>, [payload]` (R108). -/
  | busw (address length : Word)
  /-- BUSR `<nbytes>`; ADDRESS ignored (R73, R111). -/
  | busr (address length : Word)
  /-- EERD `<address>, <nbytes>` (R134). -/
  | eerd (address length : Word)
  /-- EERD1 `<address>, <nbytes>` (R137). -/
  | eerd1 (address length : Word)
  /-- EEWR `<address>, [payload]` (R139). -/
  | eewr (address length : Word)
  deriving DecidableEq, Repr

namespace Instr

/-- `ADDRESS`, the operand word `CW1` (R75). -/
def address : Instr → Word
  | .init a _ | .read a _ | .write a _ | .dump a _ | .busw a _ | .busr a _ | .eerd a _ | .eerd1 a _ | .eewr a _ => a

/-- `LENGTH`, the operand word `CW2` (R75). -/
def length : Instr → Word
  | .init _ n | .read _ n | .write _ n | .dump _ n | .busw _ n | .busr _ n | .eerd _ n | .eerd1 _ n | .eewr _ n => n

/-- Pseudo-instruction `DUMMYW <address>` is `BUSW <address>, []` (R81). -/
def dummyw (address : Word) : Instr := .busw address 0#32

/-- Pseudo-instruction `READ1 <address>` is `READ <address>, 1` (R81). -/
def read1 (address : Word) : Instr := .read address 1#32

end Instr

end Sys2Proof
end

