-- ==== Sys2Proof/WellFormed.lean ====
section
/-! DEFINITION. Which commands the spec gives a meaning: the operand ranges of 30_encoding.md rules R77 and
R78. An ill-formed command is refused at acceptance. -/

namespace Sys2Proof

namespace Instr

/-- R77: WRITE takes `LENGTH` in {1, 2, 4} only. -/
def legalWriteSize (n : Word) : Bool := n == 1#32 || n == 2#32 || n == 4#32

/-- R78 (a): the buffer must hold the payload. -/
def fitsBuf (c : Config) (n : Word) : Bool := decide (n.toNat ≤ c.bufSize)

/-- The operands are in the range the spec gives the command (R77, R78). -/
def wellFormed (c : Config) : Instr → Bool
  | .init _ _ => true
  | .read _ n => fitsBuf c n
  | .write _ n => legalWriteSize n
  | .dump _ _ => true
  | .busw _ n => fitsBuf c n
  | .busr _ n => n != 0#32 && fitsBuf c n
  | .eerd _ n => fitsBuf c n
  | .eerd1 _ n => fitsBuf c n
  | .eewr _ n => fitsBuf c n

end Instr

end Sys2Proof
end

