-- ==== Sys2Proof/Decode.lean ====
section
/-! DEFINITION. The command encoding, format `C3`, three 32-bit words (30_encoding.md rules R73 to R76): the
decoder, total on any list of words, and the encoder. The operand ranges of R77 and R78 depend on the
configuration and are checked at acceptance (Machine/Operands.lean). -/

namespace Sys2Proof

/-- Why a list of words spells no command. -/
inductive DecodeProblem where
  /-- Not the 96 bits of format `C3` (R73). -/
  | notThreeWords
  /-- `CW0[31:8]` is not 0 (R76). -/
  | zeroField
  /-- `OPC` is not in the opcode map (R76). -/
  | reservedOpcode
  deriving DecidableEq, Repr

/-- `OPC = CW0[7:0]` (R73). -/
def opcodeField (cw0 : Word) : BitVec 8 := cw0.extractLsb' 0 8

/-- `ZERO = CW0[31:8]` (R73). -/
def zeroField (cw0 : Word) : BitVec 24 := cw0.extractLsb' 8 24

/-- The opcode map (R74): the command an `OPC` names, or none where it is reserved (R76). -/
def commandOf (opc : BitVec 8) (cw1 cw2 : Word) : Option Instr :=
  if opc = 0x00#8 then some (.init cw1 cw2)
  else if opc = 0x01#8 then some (.read cw1 cw2)
  else if opc = 0x02#8 then some (.write cw1 cw2)
  else if opc = 0x03#8 then some (.dump cw1 cw2)
  else if opc = 0x10#8 then some (.busw cw1 cw2)
  else if opc = 0x11#8 then some (.busr cw1 cw2)
  else if opc = 0x20#8 then some (.eerd cw1 cw2)
  else if opc = 0x21#8 then some (.eerd1 cw1 cw2)
  else if opc = 0x22#8 then some (.eewr cw1 cw2)
  else none

/-- The command the words spell (R73 to R76). -/
def decode : List Word → Except DecodeProblem Instr
  | [cw0, cw1, cw2] =>
    if zeroField cw0 ≠ 0#24 then .error .zeroField
    else
      match commandOf (opcodeField cw0) cw1 cw2 with
      | some i => .ok i
      | none => .error .reservedOpcode
  | _ => .error .notThreeWords

/-- `OPC` of a command (R74). -/
def Instr.opcode : Instr → BitVec 8
  | .init _ _ => 0x00#8
  | .read _ _ => 0x01#8
  | .write _ _ => 0x02#8
  | .dump _ _ => 0x03#8
  | .busw _ _ => 0x10#8
  | .busr _ _ => 0x11#8
  | .eerd _ _ => 0x20#8
  | .eerd1 _ _ => 0x21#8
  | .eewr _ _ => 0x22#8

/-- The three words of a command (R73, R80). -/
def encode (i : Instr) : List Word := [i.opcode.setWidth 32, i.address, i.length]

/-- The three words of the `nbits`-bit number `w`: bits 31..0 are `CW0`, 63..32 `CW1`, 95..64 `CW2`; the bits
above `nbits` are 0. -/
def tableWords (nbits w : Nat) : List Word :=
  let v := w % 2 ^ nbits
  [BitVec.ofNat 32 v, BitVec.ofNat 32 (v / 2 ^ 32), BitVec.ofNat 32 (v / 2 ^ 64)]

/-- What the decoder reads from a number laid out as spec/opcode_table.json numbers its bits. -/
def decodeTableWord (nbits w : Nat) : Option Instr :=
  if 2 ^ 96 ≤ w % 2 ^ nbits then none
  else
    match decode (tableWords nbits w) with
    | .ok i => some i
    | .error _ => none

end Sys2Proof
end

