-- ==== Sys2Proof/Machine/State.lean ====
section
/-! DEFINITION. The state of the machine as plain data (10_state.md), the events of the TRACE (00_scope.md rule
R12), ENV and HOST as data the step reads (20_memory.md rule R64, 30_encoding.md rule R70), the refusals
(60_exceptions.md rule R194), and the state after power-on (70_reset_and_hazards.md rule R200). -/

namespace Sys2Proof.Machine

/-- A byte memory: BUF, or ENV_IDEAL's EEPROM. Cells with strictly rising addresses. An unlisted address holds no
written byte (notes/assumptions/3.md). -/
abbrev Memory := List Host.Cell

/-- The canonical form: addresses strictly rising. What an unlisted address reads as is `none`, so no entry can
equal it. -/
abbrev Memory.wf (m : Memory) : Prop := m.Pairwise (fun x y => x.1 < y.1)

/-- One event of the TRACE (R12). -/
inductive Event where
  /-- `W(reg, value)`. -/
  | write (r : OutReg) (v : Word)
  /-- `R(reg, value)`, with ENV's answer. -/
  | read (r : InReg) (v : Word)
  /-- `D(n)`, a delay of at least `n` time-units. -/
  | delay (n : Nat)
  /-- `REPORT(DUMP)`. -/
  | report
  deriving DecidableEq, Repr

/-- GHOST: a timeout at one of the four sites of R181, with the position of a per-byte poll (R183). -/
inductive Timeout where
  /-- `T_TX`. -/
  | tx (position : Word)
  /-- `T_RX`. -/
  | rx (position : Word)
  /-- `T_BUSY_W`. -/
  | busyW
  /-- `T_BUSY_R`. -/
  | busyR
  deriving DecidableEq, Repr

/-- The sixteen working registers of R21, under the spec's names. -/
structure Work where
  op : BitVec 8
  addr : Word
  len : Word
  nblk : Word
  rem : Word
  b : Word
  k : Word
  a : Word
  bo : Word
  page : BitVec 4
  ta : Word
  tn : Word
  tot : Word
  i : Word
  j : Word
  v : Word
  deriving DecidableEq, Repr

/-- The procedures that can stand on `upc`'s stack (R24). -/
inductive Proc where
  | init | read | write | dump | eerd | eerd1 | eewr | busInit | busw | busr
  deriving DecidableEq, Repr

/-- The statement labels of R117. -/
inductive Label where
  | i1 | i2 | i3 | i4 | i5 | i6 | i7
  | w1 | w2 | w3 | w4 | w5 | w6
  | r1 | r2 | r3 | r4 | r5
  | p1 | e1 | u1
  deriving DecidableEq, Repr

/-- The commands whose body calls BUS_INIT (R160, R162, R164). -/
inductive InitCaller where
  | init | read | write
  deriving DecidableEq, Repr

/-- The ways into `ReadAt`: EERD called by READ, the command EERD, the command EERD1. -/
inductive ReadCaller where
  | read | eerd | eerd1
  deriving DecidableEq, Repr

/-- The ways into `WriteAt`: EEWR called by WRITE, the command EEWR. -/
inductive WriteCaller where
  | write | eewr
  deriving DecidableEq, Repr

/-- Who selects a page (R131). -/
inductive SelectCaller where
  | reading (c : ReadCaller)
  | writing (c : WriteCaller)
  deriving DecidableEq, Repr

/-- Who runs BUSW: the command itself, a dummy write of `ReadAt`, or `WriteAt`. -/
inductive BuswCaller where
  | command
  | reading (c : ReadCaller)
  | writing (c : WriteCaller)
  deriving DecidableEq, Repr

/-- Who runs BUSR: the command itself, or `ReadAt`. -/
inductive BusrCaller where
  | command
  | reading (c : ReadCaller)
  deriving DecidableEq, Repr

/-- Labels of BUS_INIT (R105, R106). -/
inductive InitLabel where
  | i1 | i2 | i3 | i4 | i5 | i6 | i7
  deriving DecidableEq, Repr

/-- Labels of BUSW (R108). -/
inductive BuswLabel where
  | w1 | w2 | w3 | w4 | w5 | w6
  deriving DecidableEq, Repr

/-- Labels of BUSR (R111). -/
inductive BusrLabel where
  | r1 | r2 | r3 | r4 | r5
  deriving DecidableEq, Repr

/-- The micro-program counter (R24): the event-emitting statement SEQ executes next, with the procedures that
lead to it. Only the pairs the pseudocode reaches can be written; `Upc.stack` and `Upc.label` give the pair. -/
inductive Upc where
  | busInit (c : InitCaller) (l : InitLabel)
  | select (c : SelectCaller)
  | busw (c : BuswCaller) (l : BuswLabel)
  | busr (c : BusrCaller) (l : BusrLabel)
  | writeDelay (c : WriteCaller)
  | report
  deriving DecidableEq, Repr

/-- The procedures above the MAPPER's reading transactions, outermost first. -/
def ReadCaller.stack : ReadCaller → List Proc
  | .read => [.read, .eerd]
  | .eerd => [.eerd]
  | .eerd1 => [.eerd1]

/-- The procedures above the MAPPER's writing transactions, outermost first. -/
def WriteCaller.stack : WriteCaller → List Proc
  | .write => [.write, .eewr]
  | .eewr => [.eewr]

/-- The procedure stack part of `upc`, outermost first (R24). -/
def Upc.stack : Upc → List Proc
  | .busInit .init _ => [.init, .busInit]
  | .busInit .read _ => [.read, .busInit]
  | .busInit .write _ => [.write, .busInit]
  | .select (.reading c) => c.stack
  | .select (.writing c) => c.stack
  | .busw .command _ => [.busw]
  | .busw (.reading c) _ => c.stack ++ [.busw]
  | .busw (.writing c) _ => c.stack ++ [.busw]
  | .busr .command _ => [.busr]
  | .busr (.reading c) _ => c.stack ++ [.busr]
  | .writeDelay c => c.stack
  | .report => [.dump]

/-- The label part of `upc` (R117). -/
def Upc.label : Upc → Label
  | .busInit _ .i1 => .i1
  | .busInit _ .i2 => .i2
  | .busInit _ .i3 => .i3
  | .busInit _ .i4 => .i4
  | .busInit _ .i5 => .i5
  | .busInit _ .i6 => .i6
  | .busInit _ .i7 => .i7
  | .select _ => .p1
  | .busw _ .w1 => .w1
  | .busw _ .w2 => .w2
  | .busw _ .w3 => .w3
  | .busw _ .w4 => .w4
  | .busw _ .w5 => .w5
  | .busw _ .w6 => .w6
  | .busr _ .r1 => .r1
  | .busr _ .r2 => .r2
  | .busr _ .r3 => .r3
  | .busr _ .r4 => .r4
  | .busr _ .r5 => .r5
  | .writeDelay _ => .e1
  | .report => .u1

/-- `RUN` (R23), with `upc`, which holds a value exactly while `RUN = BUSY` (R24): the statement SEQ executes next.
`last` is the statement whose event came last, none right after acceptance: the register and BUF updates between its
event and `upc`'s belong to the step of `upc` (R25), so they are still to come. `last` is the model's own
(notes/assumptions/8.md). -/
inductive Run where
  | idle
  | busy (upc : Upc) (last : Option Upc)
  deriving DecidableEq, Repr

/-- ENV_IDEAL's `mode` (R66). -/
inductive IdealMode where
  | idle | tx | rx
  deriving DecidableEq, Repr

/-- The state of the reference environment ENV_IDEAL (R66). It holds the hidden state of R39 (a) and (b): the
transaction in flight and the EEPROM's pointer. -/
structure Ideal where
  mode : IdealMode
  /-- The last value written to BYTECNT. -/
  cnt : Word
  /-- Bytes still to move. -/
  left : Nat
  /-- The last byte written to DATAOUT while not in TX. -/
  hold : Byte
  /-- The bytes accepted in the current TX. -/
  rx : List Byte
  /-- The last value written to DEVADDR. -/
  dev : Word
  /-- The RSTCTRL word. -/
  rst : Word
  /-- `P`, the EEPROM pointer. -/
  ptr : Nat
  /-- The EEPROM array. -/
  mem : Memory
  deriving DecidableEq, Repr

/-- ENV as data: the oracle of R64, by the answers it will give in order (beyond the listed ones, free values
numbered by `drawn`), or the reference environment of R66. -/
inductive Env where
  | oracle (answers : List Word) (drawn : Nat)
  | ideal (e : Ideal)
  deriving DecidableEq, Repr

/-- The three command words HOST presents at the command port (R70). -/
structure CommandWord where
  cw0 : Word
  cw1 : Word
  cw2 : Word
  deriving DecidableEq, Repr

/-- The words in port order. -/
def CommandWord.words (c : CommandWord) : List Word := [c.cw0, c.cw1, c.cw2]

/-- A move of HOST while `RUN = IDLE` (R27, R70, R216). -/
inductive HostMove where
  /-- HOST places bytes in `BUF[0 ..]`. -/
  | fill (bytes : List Byte)
  /-- HOST presents a command word. -/
  | present (c : CommandWord)
  deriving DecidableEq, Repr

/-- The state. -/
structure State where
  /-- The parameters of the instance (R7, R8), constant. -/
  cfg : Config
  /-- The working registers (R21). -/
  work : Work
  /-- `RUN` and `upc` (R23, R24). -/
  run : Run
  /-- BUF (R27). -/
  buf : Memory
  /-- The shadows of the writable controller registers (R28). -/
  shadow : CtrlRegs
  /-- The last word SEQ wrote to RSTCTRL (R38, R40). -/
  rstctrl : Word
  /-- ENV (R64, R66). -/
  env : Env
  /-- The moves HOST makes next, in order (R70). -/
  host : List HostMove
  /-- The TRACE, in issue order (R12). No rule reads it. -/
  trace : List Event
  /-- GHOST: the timeouts so far (R183). No rule reads it. -/
  timeouts : List Timeout
  deriving DecidableEq, Repr

/-- SEQ has no fault: no command can trap, fault or abort (R180), and no outcome of a step is a fault (R195). -/
inductive Fault where
  deriving DecidableEq, Repr

/-- The named outcomes of R194: inputs to which the spec gives no meaning. Each is safe: the model says nothing
about what the hardware would do. -/
inductive Refusal where
  /-- Raised by an arm of `exec` whose command has no meaning yet (safe). -/
  | notModelled (mnemonic : String)
  /-- Raised by `step` and every meaning: the parameters are out of range (R9, R194; safe). -/
  | configuration
  /-- Raised by every meaning: a command presented while `RUN = BUSY`, which HOST has no move for (R70; safe). -/
  | commandWhileBusy
  /-- Raised by `step`: the words spell no command (R76; safe). -/
  | undecodable (p : DecodeProblem)
  /-- Raised by WRITE: LENGTH outside 1, 2, 4 (R77; safe). -/
  | writeSize
  /-- Raised by READ, BUSW, BUSR, EERD, EERD1, EEWR: LENGTH above `BUF_SIZE` (R78; safe). -/
  | lengthAboveBuf
  /-- Raised by BUSR: LENGTH is 0 (R78, R113; safe). -/
  | busrZero
  /-- Raised by `step`: HOST fills BUF past its end, an index that does not exist (R27; safe). -/
  | fillAboveBuf
  deriving DecidableEq, Repr

/-- What every command, operation and step answers. -/
abbrev Outcome := Host.Outcome State Fault Refusal

namespace State

/-- `upc`: no value while IDLE (R24). -/
def upc (s : State) : Option Upc :=
  match s.run with
  | .idle => none
  | .busy u _ => some u

def withWork (s : State) (w : Work) : State := { s with work := w }
def withRun (s : State) (r : Run) : State := { s with run := r }
def withBuf (s : State) (m : Memory) : State := { s with buf := m }
def withShadow (s : State) (c : CtrlRegs) : State := { s with shadow := c }
def withRstctrl (s : State) (v : Word) : State := { s with rstctrl := v }
def withEnv (s : State) (e : Env) : State := { s with env := e }
def withHost (s : State) (h : List HostMove) : State := { s with host := h }
def withTrace (s : State) (t : List Event) : State := { s with trace := t }
def withTimeouts (s : State) (t : List Timeout) : State := { s with timeouts := t }

/-- The working registers at power-on. The spec gives no value and no rule reads one before it is written
(R20, R40, notes/assumptions/5.md). -/
def resetWork : Work :=
  { op := 0, addr := 0, len := 0, nblk := 0, rem := 0, b := 0, k := 0, a := 0, bo := 0, page := 0, ta := 0,
    tn := 0, tot := 0, i := 0, j := 0, v := 0 }

/-- The parameters of the instance `reset` describes (notes/assumptions/4.md). -/
def resetConfig : Config :=
  { addrBytes := 1, board := .prod, clkdivSim := 375, timeUnit := 1, i2cBase := 0x900, rstctrlAddr := 0x34,
    rstMask := 0x00010000#32, bufSize := 4096,
    ctrlReset :=
      { config := Config.ctrlResetFree .config, clkdiv := Config.ctrlResetFree .clkdiv,
        devaddr := Config.ctrlResetFree .devaddr, addr := Config.ctrlResetFree .addr,
        dataout := Config.ctrlResetFree .dataout, startxfr := Config.ctrlResetFree .startxfr,
        bytecnt := Config.ctrlResetFree .bytecnt } }

/-- Power-on (R40, R200): `RUN = IDLE`, no value in `upc`, the shadows at `CTRL_RESET`, nothing written to BUF,
nothing emitted, no command presented. -/
def reset : State :=
  { cfg := resetConfig, work := resetWork, run := .idle, buf := [], shadow := resetConfig.ctrlReset,
    rstctrl := Config.rstctrlFree, env := .oracle [] 0, host := [], trace := [], timeouts := [] }

end State

end Sys2Proof.Machine
end

