-- ==== Sys2Proof/Machine/Flags.lean ====
section
/-! DEFINITION. SEQ has no flags (10_state.md rule R26). The only ones in the hardware are three STATUS bits of the
controller (R35), tested in the word just read. -/

namespace Sys2Proof.Machine

/-- STATUS bit 0 is 0: the transaction has completed (R35, R103). -/
def statusIdle (v : Word) : Bool := !v.getLsbD 0

/-- STATUS bit 1: DATAOUT may be written with the next byte (R35). -/
def statusTxEmpty (v : Word) : Bool := v.getLsbD 1

/-- STATUS bit 2: a received byte is ready in DATAIN (R35). -/
def statusDataReady (v : Word) : Bool := v.getLsbD 2

end Sys2Proof.Machine
end

