-- ==== Sys2Proof/Machine/Ops.lean ====
section
/-! DEFINITION. The named operations over BUF, ENV, the register bus and the TRACE: the primitives of
00_scope.md rule R11. Every meaning is built from them. SEQ has no exception to take and none to return from
(60_exceptions.md rules R180, R186 and R187), so there is no such operation. -/

namespace Sys2Proof.Machine

/-! ### Byte memories -/

/-- The byte written at `a`, if any. -/
def Memory.read : Memory → Nat → Option Byte
  | [], _ => none
  | (k, v) :: m, a => if k = a then some v else Memory.read m a

/-- Write one byte and keep the canonical form. -/
def Memory.write : Memory → Nat → Byte → Memory
  | [], a, b => [(a, b)]
  | (k, v) :: m, a, b =>
    if a < k then (a, b) :: (k, v) :: m
    else if a = k then (a, b) :: m
    else (k, v) :: Memory.write m a b

/-- Write bytes at consecutive addresses. -/
def Memory.writeList : Memory → Nat → List Byte → Memory
  | m, _, [] => m
  | m, a, b :: bs => Memory.writeList (Memory.write m a b) (a + 1) bs

namespace State

/-- `BUF[i]` (R27): the byte written there, else what the buffer happened to hold (U1). -/
def bufByte (s : State) (i : Nat) : Byte := (Memory.read s.buf i).getD (Config.bufFree i)

/-- `BUF[i] <- b` (R27). -/
def bufStore (i : Nat) (b : Byte) (s : State) : State := s.withBuf (Memory.write s.buf i b)

/-- Append one event to the TRACE (R12). -/
def emit (s : State) (e : Event) : State := s.withTrace (s.trace ++ [e])

/-- Append to the ghost record of timeouts (R183). -/
def noteTimeout (t : Timeout) (s : State) : State := s.withTimeouts (s.timeouts ++ [t])

/-- `x[I] <- v`. -/
def setI (v : Word) (s : State) : State := s.withWork { s.work with i := v }

/-- `x[J] <- v`. -/
def setJ (v : Word) (s : State) : State := s.withWork { s.work with j := v }

/-- `x[V] <- v`. -/
def setV (v : Word) (s : State) : State := s.withWork { s.work with v := v }

/-- `x[B] <- v`. -/
def setB (v : Word) (s : State) : State := s.withWork { s.work with b := v }

/-- `x[K] <- v`. -/
def setK (v : Word) (s : State) : State := s.withWork { s.work with k := v }

/-- `x[PAGE] <- p`. -/
def setPage (p : BitVec 4) (s : State) : State := s.withWork { s.work with page := p }

/-- `x[NBLK] <- n ; x[REM] <- r`. -/
def setBlocks (n r : Word) (s : State) : State := s.withWork { s.work with nblk := n, rem := r }

/-- `x[A] <- a ; x[BO] <- bo`. -/
def setSlice (a bo : Word) (s : State) : State := s.withWork { s.work with a := a, bo := bo }

/-- The arguments of BUSW and the total `TOT = TN + ADDR_BYTES` (R108). -/
def setBusw (ta bo tn : Word) (s : State) : State :=
  s.withWork { s.work with ta := ta, bo := bo, tn := tn, tot := tn + s.cfg.addrWord }

/-- The arguments of BUSR (R111). -/
def setBusr (bo tn : Word) (s : State) : State := s.withWork { s.work with bo := bo, tn := tn }

end State

/-! ### The reference environment ENV_IDEAL (R66) -/

namespace Ideal

/-- Bytes stored from the pointer on, the pointer advancing modulo `SIZE`. -/
def store (size : Nat) : List Byte → Ideal → Ideal
  | [], e => e
  | d :: ds, e => store size ds { e with mem := Memory.write e.mem e.ptr d, ptr := (e.ptr + 1) % size }

/-- `finish()`: the address bytes set the pointer, the data bytes are stored, the transaction is over. -/
def finish (c : Config) (e : Ideal) : Ideal :=
  let b (n : Nat) : Nat := (e.rx.getD n 0#8).toNat
  let p := if c.addrBytes = 1 then (e.dev.extractLsb' 0 3).toNat * 256 + b 0 else b 0 * 256 + b 1
  { store c.eepromSize (e.rx.drop c.addrBytes) { e with ptr := p } with mode := .idle }

/-- `accept(b)`. -/
def accept (c : Config) (b : Byte) (e : Ideal) : Ideal :=
  let e1 := { e with rx := e.rx ++ [b], left := e.left - 1 }
  if e1.left = 0 then finish c e1 else e1

/-- The answer to a STATUS read. -/
def status (e : Ideal) : Word :=
  (if e.mode ≠ .idle then 1#32 else 0#32) ||| (if e.mode ≠ .rx then 2#32 else 0#32) |||
    (if e.mode = .rx ∧ 0 < e.left then 4#32 else 0#32)

/-- The cell the pointer names. -/
def cell (e : Ideal) : Byte := (Memory.read e.mem e.ptr).getD (Config.eepromFree e.ptr)

/-- The answer to a register read, and the environment after it. -/
def answer (c : Config) (e : Ideal) : InReg → Word × Ideal
  | .rstctrl => (e.rst, e)
  | .status => (e.status, e)
  | .datain =>
    let left := e.left - 1
    (e.cell.toWord,
      { e with ptr := (e.ptr + 1) % c.eepromSize, left := left, mode := if left = 0 then .idle else e.mode })

/-- The environment after a register write. -/
def observe (c : Config) (v : Word) (e : Ideal) : OutReg → Ideal
  | .rstctrl => { e with rst := v }
  | .bytecnt => { e with cnt := v }
  | .devaddr => { e with dev := v }
  | .config => e
  | .clkdiv => e
  | .dataout => if e.mode = .tx then accept c v.lowByte e else { e with hold := v.lowByte }
  | .startxfr =>
    if v = Config.startWrite then
      accept c e.hold { e with mode := .tx, left := e.cnt.toNat + 1, rx := [] }
    else { e with mode := .rx, left := e.cnt.toNat + 1 }

end Ideal

namespace Env

/-- ENV's answer to a read (R64), and ENV after it. -/
def answer (c : Config) : Env → InReg → Word × Env
  | .oracle [] n, _ => (Config.envFree n, .oracle [] (n + 1))
  | .oracle (w :: ws) n, _ => (w, .oracle ws n)
  | .ideal e, r => ((e.answer c r).1, .ideal (e.answer c r).2)

/-- ENV after it has observed a write (R6, R64). -/
def observe (c : Config) (r : OutReg) (v : Word) : Env → Env
  | .oracle ws n => .oracle ws n
  | .ideal e => .ideal (e.observe c v r)

end Env

/-! ### The register bus (R53, R54) -/

/-- `shadow[R] <- v` (R54); RSTCTRL has no controller shadow. -/
def setShadow (r : OutReg) (v : Word) (c : CtrlRegs) : CtrlRegs :=
  match r with
  | .config => { c with config := v }
  | .clkdiv => { c with clkdiv := v }
  | .devaddr => { c with devaddr := v }
  | .dataout => { c with dataout := v }
  | .startxfr => { c with startxfr := v }
  | .bytecnt => { c with bytecnt := v }
  | .rstctrl => c

/-- `RegRead(R)`, or the read of RSTCTRL (R53, R54): the answer goes to `V`. -/
def busRead (r : InReg) (s : State) : State :=
  let p := s.env.answer s.cfg r
  ((s.withEnv p.2).setV p.1).emit (.read r p.1)

/-- `RegWrite(R, v)`, or the write of RSTCTRL (R53, R54). -/
def busWrite (r : OutReg) (v : Word) (s : State) : State :=
  (((s.withShadow (setShadow r v s.shadow)).withRstctrl (if r = .rstctrl then v else s.rstctrl)).withEnv
    (s.env.observe s.cfg r v)).emit (.write r v)

/-- `Delay(n)` (R104). -/
def delay (n : Nat) (s : State) : State := s.emit (.delay n)

/-- The one event of DUMP (R166). -/
def report (s : State) : State := s.emit .report

/-- The reset pulse is complete: every shadow is at `CTRL_RESET` (R40, R201, notes/assumptions/7.md). -/
def controllerReset (s : State) : State := s.withShadow s.cfg.ctrlReset

end Sys2Proof.Machine
end

