-- ==== Sys2Proof/Machine/Operands.lean ====
section
/-! DEFINITION. Operands: what acceptance checks and latches (30_encoding.md rules R71, R77, R78), the bytes of a
write transaction (40_engine.md rule R108), the page selector and the addresses and BUF offsets of blocks and
tail bytes (41_paged.md rules R130 to R133). -/

namespace Sys2Proof.Machine

/-! ### Acceptance -/

/-- Why the operands are refused, if they are (R77, R78). -/
def operandRefusal (c : Config) : Instr → Option Refusal
  | .init _ _ => none
  | .dump _ _ => none
  | .write _ n => if Instr.legalWriteSize n then none else some .writeSize
  | .busr _ n =>
    if n = 0#32 then some .busrZero else if Instr.fitsBuf c n then none else some .lengthAboveBuf
  | .read _ n => if Instr.fitsBuf c n then none else some .lengthAboveBuf
  | .busw _ n => if Instr.fitsBuf c n then none else some .lengthAboveBuf
  | .eerd _ n => if Instr.fitsBuf c n then none else some .lengthAboveBuf
  | .eerd1 _ n => if Instr.fitsBuf c n then none else some .lengthAboveBuf
  | .eewr _ n => if Instr.fitsBuf c n then none else some .lengthAboveBuf

/-- Why a command is refused at acceptance, if it is (R70, R194). -/
def acceptRefusal (i : Instr) (s : State) : Option Refusal :=
  if s.cfg.Valid then
    match s.run with
    | .busy _ _ => some .commandWhileBusy
    | .idle => operandRefusal s.cfg i
  else some .configuration

/-- `x[OP] <- CW0[7:0], x[ADDR] <- CW1, x[LEN] <- CW2` (R71). -/
def latch (i : Instr) (s : State) : State :=
  s.withWork { s.work with op := i.opcode, addr := i.address, len := i.length }

/-- A command: refused at acceptance, or latched and run to its end, after which `RUN` is `IDLE` again
(R23, R71). -/
def runCommand (i : Instr) (body : State → State) (s : State) : Outcome :=
  match acceptRefusal i s with
  | some r => .refused r
  | none => .next ((body (latch i s)).withRun .idle)

/-! ### The bytes of a write transaction (R55, R108) -/

/-- The first address byte, as written to DATAOUT: `TA[15:8]` or `TA[7:0]`. -/
def firstByte (s : State) : Word :=
  if s.cfg.addrBytes = 2 then s.work.ta.highByte.toWord else s.work.ta.lowByte.toWord

/-- `NextByte(I)`, as written to DATAOUT. -/
def nextByte (s : State) : Word :=
  if s.cfg.addrBytes = 2 then
    if s.work.i = 0#32 then s.work.ta.lowByte.toWord
    else (s.bufByte (s.work.bo + s.work.i - 1#32).toNat).toWord
  else (s.bufByte (s.work.bo + s.work.i).toNat).toWord

/-! ### The page selector (R130, R131) -/

/-- `a[10:8]`. -/
def pageOf (a : Word) : BitVec 3 := a.extractLsb' 8 3

/-- `PAGE`, `a[10:8] << 1`. -/
def shiftedPage (a : Word) : BitVec 4 := (pageOf a).setWidth 4 <<< 1

/-- `(DEV_BASE | zext_32(PAGE)) >> 1`. -/
def deviceAddress (page : BitVec 4) : Word := (Config.devBase ||| page.setWidth 32) >>> 1

/-- `DEV_BASE >> 1` (R106). -/
def baseDeviceAddress : Word := Config.devBase >>> 1

/-! ### Addresses and offsets of blocks and tail bytes (R133): 32-bit wrapping sums -/

/-- `A` and `BO` of full block `B`: `ADDR + size*B`, `size*B`. -/
def sliceOfBlock (size : Word) (s : State) : State :=
  s.setSlice (s.work.addr + size * s.work.b) (size * s.work.b)

/-- `A` and `BO` of tail byte `K`: `ADDR + size*NBLK + K`, `size*NBLK + K`. -/
def sliceOfTail (size : Word) (s : State) : State :=
  s.setSlice (s.work.addr + size * s.work.nblk + s.work.k) (size * s.work.nblk + s.work.k)

/-- `A` and `BO` of byte `K` of EERD1: `ADDR + K`, `K`. -/
def sliceOfByte (s : State) : State := s.setSlice (s.work.addr + s.work.k) s.work.k

/-- `NBLK <- LEN / size ; REM <- LEN % size`. -/
def splitLength (size : Word) (s : State) : State := s.setBlocks (s.work.len / size) (s.work.len % size)

end Sys2Proof.Machine
end

