-- ==== Sys2Proof/Machine/Engine.lean ====
section
/-! DEFINITION. The ENGINE (40_engine.md): the bounded polls, BUS_INIT, BUSW, BUSR, and the meanings of the commands
BUSW and BUSR. -/

namespace Sys2Proof.Machine

/-! ### Bounded polls (R102, R103) -/

/-- At most `n` more STATUS samples: whether one of them met `test`. -/
def pollLoop (test : Word → Bool) : Nat → State → Bool × State
  | 0, s => (false, s)
  | n + 1, s =>
    let s1 := busRead .status s
    if test s1.work.v then (true, s1) else pollLoop test n (s1.setJ (s1.work.j + 1#32))

/-- A poll of at most `bound` samples, counted in `J`. -/
def poll (test : Word → Bool) (bound : Nat) (s : State) : Bool × State := pollLoop test bound (s.setJ 0#32)

/-- `PollSet(bit, MAX_BUSY_LOOP)` (R102). -/
def pollSet (test : Word → Bool) (s : State) : Bool × State := poll test s.cfg.maxBusyLoop s

/-- `WaitIdle()` (R103); a timeout only leaves the ghost record `t`. -/
def waitIdle (t : Timeout) (s : State) : State :=
  let p := poll statusIdle s.cfg.busyLoop s
  if p.1 then p.2 else p.2.noteTimeout t

/-! ### BUS_INIT (R105, R106) -/

/-- The reset pulse (R105). -/
def resetPulse (s : State) : State :=
  let s1 := busRead .rstctrl s
  let v := s1.work.v
  let s2 := busWrite .rstctrl (v ||| s1.cfg.rstMask) s1
  let s3 := controllerReset (busWrite .rstctrl (v &&& ~~~s1.cfg.rstMask) s2)
  delay Config.tResetSettle s3

/-- The defaults (R106). -/
def writeDefaults (s : State) : State :=
  busWrite .devaddr baseDeviceAddress (busWrite .clkdiv s.cfg.clkdivWord (busWrite .config Config.cfgDefault s))

/-- BUS_INIT. -/
def busInit (s : State) : State := writeDefaults (resetPulse s)

/-! ### BUSW (R108) -/

/-- One byte position: poll, then the byte of this position; on a timeout nothing is written for it. -/
def buswPosition (s : State) : State :=
  let p := pollSet statusTxEmpty s
  let s1 := if p.1 then busWrite .dataout (nextByte p.2) p.2 else p.2.noteTimeout (.tx p.2.work.i)
  s1.setI (s1.work.i + 1#32)

/-- `n` byte positions. -/
def buswLoop : Nat → State → State
  | 0, s => s
  | n + 1, s => buswLoop n (buswPosition s)

/-- BYTECNT, first DATAOUT, STARTXFR, `I <- 0`, with the arguments in their registers. -/
def buswStart (s : State) : State :=
  let s1 := busWrite .bytecnt (s.work.tot - 1#32) s
  let s2 := busWrite .dataout (firstByte s1) s1
  (busWrite .startxfr Config.startWrite s2).setI 0#32

/-- BUSW with its arguments `TA`, `BO`, `TN`. -/
def busw (ta bo tn : Word) (s : State) : State :=
  let s1 := buswStart (s.setBusw ta bo tn)
  waitIdle .busyW (buswLoop (s1.work.tot - 1#32).toNat s1)

/-! ### BUSR (R111) -/

/-- One byte position: poll, then one DATAIN read into BUF; on a timeout BUF keeps its byte (R112). -/
def busrPosition (s : State) : State :=
  let p := pollSet statusDataReady s
  let s1 :=
    if p.1 then
      let s2 := busRead .datain p.2
      s2.bufStore (s2.work.bo + s2.work.i).toNat s2.work.v.lowByte
    else p.2.noteTimeout (.rx p.2.work.i)
  s1.setI (s1.work.i + 1#32)

/-- `n` byte positions. -/
def busrLoop : Nat → State → State
  | 0, s => s
  | n + 1, s => busrLoop n (busrPosition s)

/-- BYTECNT, STARTXFR, `I <- 0`, with the arguments in their registers. -/
def busrStart (s : State) : State :=
  (busWrite .startxfr Config.startRead (busWrite .bytecnt (s.work.tn - 1#32) s)).setI 0#32

/-- BUSR with its arguments `BO`, `TN`. -/
def busr (bo tn : Word) (s : State) : State :=
  let s1 := busrStart (s.setBusr bo tn)
  waitIdle .busyR (busrLoop s1.work.tn.toNat s1)

/-! ### The commands -/

/-- BUSW as a command: `TA <- ADDR`, `TN <- LEN`, `BO <- 0` (R108). -/
def execBusw (address length : Word) (s : State) : Outcome :=
  runCommand (.busw address length) (fun s => busw s.work.addr 0#32 s.work.len s) s

/-- BUSR as a command: `TN <- LEN`, `BO <- 0` (R111). -/
def execBusr (address length : Word) (s : State) : Outcome :=
  runCommand (.busr address length) (fun s => busr 0#32 s.work.len s) s

end Sys2Proof.Machine
end

