-- ==== Sys2Proof/Machine/Mapper.lean ====
section
/-! DEFINITION. The MAPPER (41_paged.md): the page select, `ReadAt`, `WriteAt`, EERD, EERD1, EEWR, and the meanings
of the three commands. -/

namespace Sys2Proof.Machine

/-- `PageSelect(a)` (R131): nothing with two-byte addressing. -/
def pageSelect (a : Word) (s : State) : State :=
  if s.cfg.addrBytes = 1 then
    let s1 := s.setPage (shiftedPage a)
    busWrite .devaddr (deviceAddress s1.work.page) s1
  else s

/-- `ReadAt(A, BO, n)` (R134): page select, dummy write, read. -/
def readAt (n : Word) (s : State) : State :=
  let a := s.work.a
  let bo := s.work.bo
  busr bo n (busw a bo 0#32 (pageSelect a s))

/-- `WriteAt(A, BO, n)` (R139): page select, one write transaction, the write-cycle delay (R140). -/
def writeAt (n : Word) (s : State) : State :=
  let a := s.work.a
  let bo := s.work.bo
  delay Config.tWriteCycle (busw a bo n (pageSelect a s))

/-- `n` full blocks of `size` bytes, each by `act`. -/
def blockLoop (size : Word) (act : State → State) : Nat → State → State
  | 0, s => s
  | n + 1, s =>
    let s1 := act (sliceOfBlock size s)
    blockLoop size act n (s1.setB (s1.work.b + 1#32))

/-- `n` tail bytes after the full blocks of `size` bytes, each by `act`. -/
def tailLoop (size : Word) (act : State → State) : Nat → State → State
  | 0, s => s
  | n + 1, s =>
    let s1 := act (sliceOfTail size s)
    tailLoop size act n (s1.setK (s1.work.k + 1#32))

/-- `n` single bytes of EERD1. -/
def byteLoop : Nat → State → State
  | 0, s => s
  | n + 1, s =>
    let s1 := readAt 1#32 (sliceOfByte s)
    byteLoop n (s1.setK (s1.work.k + 1#32))

/-- EERD on the latched operands (R134). -/
def eerd (s : State) : State :=
  let s1 := (splitLength Config.rdBlock s).setB 0#32
  let s2 := (blockLoop Config.rdBlock (readAt Config.rdBlock) s1.work.nblk.toNat s1).setK 0#32
  tailLoop Config.rdBlock (readAt 1#32) s2.work.rem.toNat s2

/-- EERD1 on the latched operands (R137). -/
def eerd1 (s : State) : State :=
  let s1 := s.setK 0#32
  byteLoop s1.work.len.toNat s1

/-- EEWR on the latched operands (R139). -/
def eewr (s : State) : State :=
  let s1 := (splitLength Config.wrBlock s).setB 0#32
  let s2 := (blockLoop Config.wrBlock (writeAt Config.wrBlock) s1.work.nblk.toNat s1).setK 0#32
  tailLoop Config.wrBlock (writeAt 1#32) s2.work.rem.toNat s2

/-- The command EERD (R134). -/
def execEerd (address length : Word) (s : State) : Outcome := runCommand (.eerd address length) eerd s

/-- The command EERD1 (R137). -/
def execEerd1 (address length : Word) (s : State) : Outcome := runCommand (.eerd1 address length) eerd1 s

/-- The command EEWR (R139). -/
def execEewr (address length : Word) (s : State) : Outcome := runCommand (.eewr address length) eewr s

end Sys2Proof.Machine
end

