-- ==== Sys2Proof/Machine/Driver.lean ====
section
/-! DEFINITION. The driver-level commands INIT, READ, WRITE, DUMP (42_host.md). -/

namespace Sys2Proof.Machine

/-- INIT is BUS_INIT (R160). -/
def execInit (address length : Word) (s : State) : Outcome := runCommand (.init address length) busInit s

/-- READ is BUS_INIT, then EERD (R162). -/
def execRead (address length : Word) (s : State) : Outcome :=
  runCommand (.read address length) (fun s => eerd (busInit s)) s

/-- WRITE is BUS_INIT, then EEWR (R164). -/
def execWrite (address length : Word) (s : State) : Outcome :=
  runCommand (.write address length) (fun s => eewr (busInit s)) s

/-- DUMP emits its report and does nothing else (R166). -/
def execDump (address length : Word) (s : State) : Outcome := runCommand (.dump address length) report s

end Sys2Proof.Machine
end

