-- ==== Sys2Proof/Machine/Dispatch.lean ====
section
/-! DEFINITION. One arm per command. -/

namespace Sys2Proof.Machine

def exec (i : Instr) (s : State) : Host.Outcome State Fault Refusal :=
  match i with
  | .init address length => Sys2Proof.Machine.execInit address length s
  | .read address length => Sys2Proof.Machine.execRead address length s
  | .write address length => Sys2Proof.Machine.execWrite address length s
  | .dump address length => Sys2Proof.Machine.execDump address length s
  | .busw address length => Sys2Proof.Machine.execBusw address length s
  | .busr address length => Sys2Proof.Machine.execBusr address length s
  | .eerd address length => Sys2Proof.Machine.execEerd address length s
  | .eerd1 address length => Sys2Proof.Machine.execEerd1 address length s
  | .eewr address length => Sys2Proof.Machine.execEewr address length s

end Sys2Proof.Machine
end

