-- ==== Sys2Proof/Machine/Micro.lean ====
section
/-! DEFINITION. The micro-steps (10_state.md rules R24 and R25, 40_engine.md rule R117). The pseudocode falls into
events (`event`, one for each label) and the updates on the way from one event to the next (`after`). A micro-step
makes the updates that are still to come and then its event; the updates after the last event of a command belong to
its last step. -/

namespace Sys2Proof.Machine

/-- Where the pseudocode goes from an event: the next event-emitting statement, or none where the command ends, and
the state with the updates on the way made. -/
abbrev Walk := Option Upc × State

/-- The next event is that of `u`. -/
def goto (u : Upc) (s : State) : Walk := (some u, s)

/-- The operation's pseudocode ends (R23). -/
def finish (s : State) : Walk := (none, s)

/-! ### Entries of the ENGINE and MAPPER procedures -/

/-- Enter BUSW with its arguments. -/
def enterBusw (c : BuswCaller) (ta bo tn : Word) (s : State) : Walk := goto (.busw c .w1) (s.setBusw ta bo tn)

/-- Enter BUSR with its arguments. -/
def enterBusr (c : BusrCaller) (bo tn : Word) (s : State) : Walk := goto (.busr c .r1) (s.setBusr bo tn)

/-- Enter BUSW for the transaction at `A`, `BO`: a dummy write of `ReadAt`, or the write of `WriteAt` with `n`
payload bytes. -/
def enterTransaction (c : SelectCaller) (n : Word) (s : State) : Walk :=
  match c with
  | .reading r => enterBusw (.reading r) s.work.a s.work.bo 0#32 s
  | .writing w => enterBusw (.writing w) s.work.a s.work.bo n s

/-- `PageSelect(A)`: its one event, or straight on to the transaction with two-byte addressing (R131). -/
def enterSelect (c : SelectCaller) (n : Word) (s : State) : Walk :=
  if s.cfg.addrBytes = 1 then goto (.select c) (s.setPage (shiftedPage s.work.a)) else enterTransaction c n s

/-- The number of payload bytes of the current `ReadAt` or `WriteAt`: a full block of `size` while `B < NBLK`,
one byte in the tail (R134, R139). -/
def payloadOf (size : Word) (s : State) : Word := if s.work.b < s.work.nblk then size else 1#32

/-! ### The MAPPER's loops -/

/-- The head of the tail loop. -/
def tailHead (size : Word) (c : SelectCaller) (s : State) : Walk :=
  if s.work.k < s.work.rem then enterSelect c 1#32 (sliceOfTail size s) else finish s

/-- The head of the block loop. -/
def blockHead (size : Word) (c : SelectCaller) (s : State) : Walk :=
  if s.work.b < s.work.nblk then enterSelect c size (sliceOfBlock size s) else tailHead size c (s.setK 0#32)

/-- The head of EERD1's loop. -/
def byteHead (s : State) : Walk :=
  if s.work.k < s.work.len then enterSelect (.reading .eerd1) 1#32 (sliceOfByte s) else finish s

/-- A full block or a tail byte is done: on with the loop it belongs to. -/
def nextSlice (size : Word) (c : SelectCaller) (s : State) : Walk :=
  if s.work.b < s.work.nblk then blockHead size c (s.setB (s.work.b + 1#32))
  else tailHead size c (s.setK (s.work.k + 1#32))

/-- EERD from its start. -/
def startEerd (c : ReadCaller) (s : State) : Walk :=
  blockHead Config.rdBlock (.reading c) ((splitLength Config.rdBlock s).setB 0#32)

/-- EERD1 from its start. -/
def startEerd1 (s : State) : Walk := byteHead (s.setK 0#32)

/-- EEWR from its start. -/
def startEewr (c : WriteCaller) (s : State) : Walk :=
  blockHead Config.wrBlock (.writing c) ((splitLength Config.wrBlock s).setB 0#32)

/-- The payload of the current `ReadAt`. -/
def readPayload (c : ReadCaller) (s : State) : Word :=
  match c with
  | .read => payloadOf Config.rdBlock s
  | .eerd => payloadOf Config.rdBlock s
  | .eerd1 => 1#32

/-! ### Returns -/

/-- BUS_INIT returns (R160, R162, R164). -/
def returnInit (c : InitCaller) (s : State) : Walk :=
  match c with
  | .init => finish s
  | .read => startEerd .read s
  | .write => startEewr .write s

/-- BUSW returns: the command ends, `ReadAt` goes on to its read, `WriteAt` to its delay. -/
def returnBusw (c : BuswCaller) (s : State) : Walk :=
  match c with
  | .command => finish s
  | .reading r => enterBusr (.reading r) s.work.bo (readPayload r s) s
  | .writing w => goto (.writeDelay w) s

/-- BUSR returns: the command ends, or the MAPPER's loop goes on. -/
def returnBusr (c : BusrCaller) (s : State) : Walk :=
  match c with
  | .command => finish s
  | .reading .read => nextSlice Config.rdBlock (.reading .read) s
  | .reading .eerd => nextSlice Config.rdBlock (.reading .eerd) s
  | .reading .eerd1 => byteHead (s.setK (s.work.k + 1#32))

/-! ### The ENGINE's loops -/

/-- The head of BUSW's byte loop. -/
def buswHead (c : BuswCaller) (s : State) : Walk :=
  if s.work.i < s.work.tot - 1#32 then goto (.busw c .w4) (s.setJ 0#32) else goto (.busw c .w6) (s.setJ 0#32)

/-- The head of BUSR's byte loop. -/
def busrHead (c : BusrCaller) (s : State) : Walk :=
  if s.work.i < s.work.tn then goto (.busr c .r3) (s.setJ 0#32) else goto (.busr c .r5) (s.setJ 0#32)

/-- After one STATUS sample of a poll: `hit` if it meets `test`, `out` if it was the last of `bound`, else another
sample by `again` (R102, R103). -/
def afterSample (test : Word → Bool) (bound : Nat) (hit out again : State → Walk) (s : State) : Walk :=
  if test s.work.v then hit s
  else
    let s1 := s.setJ (s.work.j + 1#32)
    if s1.work.j.toNat = bound then out s1 else again s1

/-! ### Events -/

/-- The events of BUS_INIT (R105, R106). -/
def eventInit (l : InitLabel) (s : State) : State :=
  match l with
  | .i1 => busRead .rstctrl s
  | .i2 => busWrite .rstctrl (s.work.v ||| s.cfg.rstMask) s
  | .i3 => controllerReset (busWrite .rstctrl (s.work.v &&& ~~~s.cfg.rstMask) s)
  | .i4 => delay Config.tResetSettle s
  | .i5 => busWrite .config Config.cfgDefault s
  | .i6 => busWrite .clkdiv s.cfg.clkdivWord s
  | .i7 => busWrite .devaddr baseDeviceAddress s

/-- The events of BUSW (R108). -/
def eventBusw (l : BuswLabel) (s : State) : State :=
  match l with
  | .w1 => busWrite .bytecnt (s.work.tot - 1#32) s
  | .w2 => busWrite .dataout (firstByte s) s
  | .w3 => busWrite .startxfr Config.startWrite s
  | .w4 => busRead .status s
  | .w5 => busWrite .dataout (nextByte s) s
  | .w6 => busRead .status s

/-- The events of BUSR (R111). -/
def eventBusr (l : BusrLabel) (s : State) : State :=
  match l with
  | .r1 => busWrite .bytecnt (s.work.tn - 1#32) s
  | .r2 => busWrite .startxfr Config.startRead s
  | .r3 => busRead .status s
  | .r4 => busRead .datain s
  | .r5 => busRead .status s

/-- The one event of the statement `u` (R117). -/
def event (u : Upc) (s : State) : State :=
  match u with
  | .busInit _ l => eventInit l s
  | .select _ => busWrite .devaddr (deviceAddress s.work.page) s
  | .busw _ l => eventBusw l s
  | .busr _ l => eventBusr l s
  | .writeDelay _ => delay Config.tWriteCycle s
  | .report => report s

/-! ### From one event to the next -/

/-- From an event of BUS_INIT. -/
def afterInit (c : InitCaller) (l : InitLabel) (s : State) : Walk :=
  match l with
  | .i1 => goto (.busInit c .i2) s
  | .i2 => goto (.busInit c .i3) s
  | .i3 => goto (.busInit c .i4) s
  | .i4 => goto (.busInit c .i5) s
  | .i5 => goto (.busInit c .i6) s
  | .i6 => goto (.busInit c .i7) s
  | .i7 => returnInit c s

/-- From an event of BUSW (R108). -/
def afterBusw (c : BuswCaller) (l : BuswLabel) (s : State) : Walk :=
  match l with
  | .w1 => goto (.busw c .w2) s
  | .w2 => goto (.busw c .w3) s
  | .w3 => buswHead c (s.setI 0#32)
  | .w4 =>
    afterSample statusTxEmpty s.cfg.maxBusyLoop (goto (.busw c .w5))
      (fun t => buswHead c ((t.noteTimeout (.tx t.work.i)).setI (t.work.i + 1#32))) (goto (.busw c .w4)) s
  | .w5 => buswHead c (s.setI (s.work.i + 1#32))
  | .w6 =>
    afterSample statusIdle s.cfg.busyLoop (returnBusw c) (fun t => returnBusw c (t.noteTimeout .busyW))
      (goto (.busw c .w6)) s

/-- From an event of BUSR (R111). The byte DATAIN gave is stored on the way to the next event. -/
def afterBusr (c : BusrCaller) (l : BusrLabel) (s : State) : Walk :=
  match l with
  | .r1 => goto (.busr c .r2) s
  | .r2 => busrHead c (s.setI 0#32)
  | .r3 =>
    afterSample statusDataReady s.cfg.maxBusyLoop (goto (.busr c .r4))
      (fun t => busrHead c ((t.noteTimeout (.rx t.work.i)).setI (t.work.i + 1#32))) (goto (.busr c .r3)) s
  | .r4 => busrHead c ((s.bufStore (s.work.bo + s.work.i).toNat s.work.v.lowByte).setI (s.work.i + 1#32))
  | .r5 =>
    afterSample statusIdle s.cfg.busyLoop (returnBusr c) (fun t => returnBusr c (t.noteTimeout .busyR))
      (goto (.busr c .r5)) s

/-- From the event of `u` to the next. -/
def after (u : Upc) (s : State) : Walk :=
  match u with
  | .busInit c l => afterInit c l s
  | .select c => enterTransaction c (payloadOf Config.wrBlock s) s
  | .busw c l => afterBusw c l s
  | .busr c l => afterBusr c l s
  | .writeDelay c => nextSlice Config.wrBlock (.writing c) s
  | .report => finish s

/-- From the start of a command to its first event, or to its end where it has none (R136, R141). -/
def start (i : Instr) (s : State) : Walk :=
  match i with
  | .init _ _ => goto (.busInit .init .i1) s
  | .read _ _ => goto (.busInit .read .i1) s
  | .write _ _ => goto (.busInit .write .i1) s
  | .dump _ _ => goto .report s
  | .busw _ _ => enterBusw .command s.work.addr 0#32 s.work.len s
  | .busr _ _ => enterBusr .command 0#32 s.work.len s
  | .eerd _ _ => startEerd .eerd s
  | .eerd1 _ _ => startEerd1 s
  | .eewr _ _ => startEewr .eewr s

/-- Dispatch on the latched opcode `OP` (R21). -/
def dispatch (s : State) : Walk :=
  match commandOf s.work.op s.work.addr s.work.len with
  | some i => start i s
  | none => finish s

/-! ### Micro-steps -/

/-- The updates still to come after the event of `last`, or after acceptance, and the statement they lead to. -/
def pending (last : Option Upc) (s : State) : Walk :=
  match last with
  | none => dispatch s
  | some u => after u s

/-- The end of a step whose event was that of `last`. Where the command goes on, `upc` names the next statement and
the updates on the way wait for its step; where it ends they belong to this step and SEQ is `IDLE` (R23 to R25). -/
def proceed (last : Option Upc) (s : State) : State :=
  match pending last s with
  | (some u, _) => s.withRun (.busy u last)
  | (none, t) => t.withRun .idle

/-- The micro-step of the statement `u`: the pending updates, then its event (R25). -/
def microStep (u : Upc) (last : Option Upc) (s : State) : State := proceed (some u) (event u (pending last s).2)

/-- Acceptance (R71): the operands latched, SEQ at the first event-emitting statement of the command, or `IDLE`
again where the command has none (R136, R141). -/
def accept (i : Instr) (s : State) : State := proceed none (latch i s)

end Sys2Proof.Machine
end

