-- ==== Sys2Proof/Machine/Step.lean ====
section
/-! DEFINITION. One step of the machine. While `RUN = IDLE` SEQ waits for HOST's next move and runs a presented
command to its end (30_encoding.md rules R70 and R71; the big-step form of 10_state.md rule R25). In a state that
stands inside a command a step is one micro-step (R25). -/

namespace Sys2Proof.Machine

/-- A command word at the command port: decoded and run, or refused (R71). -/
def presentCommand (c : CommandWord) (s : State) : Outcome :=
  match decode c.words with
  | .ok i => exec i s
  | .error p => .refused (.undecodable p)

/-- HOST places bytes in `BUF[0 ..]` (R27, R216). -/
def fillBuf (bytes : List Byte) (s : State) : Outcome :=
  if bytes.length ≤ s.cfg.bufSize then .next (s.withBuf (Memory.writeList s.buf 0 bytes))
  else .refused .fillAboveBuf

/-- SEQ is `IDLE` and HOST makes its next move; without one nothing happens (R23, R200). -/
def idleStep (s : State) : Outcome :=
  match s.host with
  | [] => .next s
  | .fill bytes :: rest => fillBuf bytes (s.withHost rest)
  | .present c :: rest => presentCommand c (s.withHost rest)

/-- One step. Parameters out of range are refused (R9, R194). -/
def step (s : State) : Host.Outcome State Fault Refusal :=
  if s.cfg.Valid then
    match s.run with
    | .idle => idleStep s
    | .busy u last => .next (microStep u last s)
  else .refused .configuration

/-- The command word of a number laid out as spec/opcode_table.json numbers its bits. -/
def tableCommand (nbits w : Nat) : CommandWord :=
  let v := w % 2 ^ nbits
  { cw0 := BitVec.ofNat 32 v, cw1 := BitVec.ofNat 32 (v / 2 ^ 32), cw2 := BitVec.ofNat 32 (v / 2 ^ 64) }

/-- The state in which SEQ is `IDLE` and the command is HOST's next move (notes/assumptions/9.md). -/
def State.withFetchWord (s : State) (nbits w : Nat) : State :=
  (s.withRun .idle).withHost (.present (tableCommand nbits w) :: s.host)

end Sys2Proof.Machine
end

