-- ==== Sys2Proof/Safety.lean ====
section
/-! DEFINITION. The terms the claims use: which commands are accepted, what may stand in a TRACE and in what order
(70_reset_and_hazards.md rules R205 to R210), the views of a TRACE the claims compare, and the invariant of the
machine. -/

namespace Sys2Proof.Machine

/-- The command runs if HOST presents it now: the parameters are in range (R194), SEQ is `IDLE` (R70) and the
operands are in range (R77, R78). -/
abbrev Accepts (i : Instr) (s : State) : Prop := s.cfg.Valid ∧ s.run = .idle ∧ i.wellFormed s.cfg = true

/-! ### Events -/

/-- The values SEQ ever writes to a controller register (R29 to R37) and the two delays (R104). What it writes to
RSTCTRL depends on the word read (R38, R105): `EveryEventIsLegal` says it. -/
def Event.Legal (c : Config) : Event → Prop
  | .write .config v => v = Config.cfgDefault
  | .write .clkdiv v => v = c.clkdivWord
  | .write .devaddr v =>
    (∃ sel : BitVec 3, v = 0x28#32 ||| sel.setWidth 32) ∧ (c.addrBytes = 2 → v = 0x28#32)
  | .write .dataout v => ∃ b : Byte, v = b.toWord
  | .write .startxfr v => v = Config.startWrite ∨ v = Config.startRead
  | .write .bytecnt v => v.toNat ≤ c.bufSize + c.addrBytes - 1
  | .write .rstctrl _ => True
  | .read _ _ => True
  | .delay n => n = Config.tResetSettle ∨ n = Config.tWriteCycle
  | .report => True

/-- The BYTECNT values of each command (R37): `TN + ADDR_BYTES - 1` for a write transaction of `TN` payload bytes,
`TN - 1` for a read; the MAPPER's transactions carry 0, 1, 8 or 16 bytes. -/
def byteCounts (c : Config) : Instr → List Nat
  | .init _ _ => []
  | .read _ _ => [c.addrBytes - 1, 0, 15]
  | .write _ _ => [1 + c.addrBytes - 1]
  | .dump _ _ => []
  | .busw _ n => [n.toNat + c.addrBytes - 1]
  | .busr _ n => [n.toNat - 1]
  | .eerd _ _ => [c.addrBytes - 1, 0, 15]
  | .eerd1 _ _ => [c.addrBytes - 1, 0]
  | .eewr _ _ => [1 + c.addrBytes - 1, 8 + c.addrBytes - 1]

/-! ### The order of events inside a command -/

/-- The transactions: a write of address bytes only, a write that carries payload, a read. -/
inductive Transfer where
  | dummy | payload | read
  deriving DecidableEq, Repr

/-- How far the TRACE of a command has come. -/
inductive Phase where
  /-- Nothing emitted yet. -/
  | fresh
  /-- RSTCTRL was read (label I1). -/
  | resetRead
  /-- The reset bit was set (I2). -/
  | resetAsserted
  /-- The reset bit was cleared (I3). -/
  | resetReleased
  /-- The settle delay is over (I4). -/
  | settled
  /-- CONFIG was written (I5). -/
  | configured
  /-- CLKDIV was written (I6). -/
  | clocked
  /-- BUS_INIT, a read, or a write with its delay is over: the MAPPER's next slice may begin. -/
  | between
  /-- The page select of the next slice was made (P1). -/
  | selected
  /-- BYTECNT was written `n`; the transaction may be a write, a read, or (a direct-entry command's) either. -/
  | counted (n : Nat) (write read : Bool)
  /-- The first address byte stands in DATAOUT (W2). -/
  | loaded (n : Nat)
  /-- A transaction runs: `left` byte positions are still to be handled and the current poll, which is the completion
  poll when none is left, has taken `samples` samples. -/
  | moving (t : Transfer) (left samples : Nat)
  /-- The last sample was ready: the byte of this position is due. -/
  | ready (t : Transfer) (left : Nat)
  /-- A dummy write is complete. -/
  | primed
  /-- A payload-carrying write is complete. -/
  | written
  /-- DUMP's report was made. -/
  | reported
  deriving DecidableEq, Repr

namespace Phase

/-- A completed transaction: after a dummy write nothing but the read may come (R211), after a payload-carrying write
nothing but the write-cycle delay (R209). -/
def completed : Transfer → Phase
  | .dummy => primed
  | .payload => written
  | .read => between

/-- The STATUS bit a byte position waits for (R207). -/
def readyTest : Transfer → Word → Bool
  | .dummy => statusTxEmpty
  | .payload => statusTxEmpty
  | .read => statusDataReady

/-- After one STATUS sample of a running transaction. A byte poll ends at the ready bit or after `MAX_BUSY_LOOP`
samples (R102). With no position left the transaction is over once BUSY was seen 0, or after `BUSY_LOOP` samples
(R103, R208). -/
def sampled (c : Config) (t : Transfer) (left samples : Nat) (v : Word) : Phase :=
  if left = 0 then
    if statusIdle v = true ∨ samples + 1 = c.busyLoop then completed t else moving t 0 (samples + 1)
  else if readyTest t v then ready t left
  else if samples + 1 = c.maxBusyLoop then moving t (left - 1) 0
  else moving t left (samples + 1)

/-- The one event that may come next in each phase, and the phase after it; none where the event is out of order. The
reset pulse, the settle delay and the defaults stand in a row (R105, R106, R210); a transaction is BYTECNT, the first
byte, STARTXFR in a row (R205, R206), then one byte for each ready sample (R207), as many positions as BYTECNT said;
BYTECNT or DEVADDR come next only where no transaction runs (R208), and with one-byte addressing the page select
comes first (R143); the read follows its dummy write (R211), the delay its write (R140, R209). -/
def next (c : Config) : Phase → Event → Option Phase
  | fresh, .read .rstctrl _ => some resetRead
  | fresh, .report => some reported
  | fresh, .write .devaddr _ => if c.addrBytes = 1 then some selected else none
  | fresh, .write .bytecnt v => some (counted v.toNat true true)
  | resetRead, .write .rstctrl _ => some resetAsserted
  | resetAsserted, .write .rstctrl _ => some resetReleased
  | resetReleased, .delay n => if n = Config.tResetSettle then some settled else none
  | settled, .write .config _ => some configured
  | configured, .write .clkdiv _ => some clocked
  | clocked, .write .devaddr _ => some between
  | between, .write .devaddr _ => if c.addrBytes = 1 then some selected else none
  | between, .write .bytecnt v => if c.addrBytes = 1 then none else some (counted v.toNat true false)
  | selected, .write .bytecnt v => some (counted v.toNat true false)
  | counted n true _, .write .dataout _ => some (loaded n)
  | counted n _ true, .write .startxfr v => if v = Config.startRead then some (moving .read (n + 1) 0) else none
  | loaded n, .write .startxfr v =>
    if v = Config.startWrite then some (moving (if n + 1 = c.addrBytes then .dummy else .payload) n 0) else none
  | moving t left samples, .read .status v => some (sampled c t left samples v)
  | ready .dummy left, .write .dataout _ => some (moving .dummy (left - 1) 0)
  | ready .payload left, .write .dataout _ => some (moving .payload (left - 1) 0)
  | ready .read left, .read .datain _ => some (moving .read (left - 1) 0)
  | primed, .write .bytecnt v => some (counted v.toNat false true)
  | written, .delay n => if n = Config.tWriteCycle then some between else none
  | _, _ => none

/-- The phase after a list of events, none if one of them is out of order. -/
def run (c : Config) : Phase → List Event → Option Phase
  | p, [] => some p
  | p, e :: es =>
    match next c p e with
    | some q => run c q es
    | none => none

/-- A command may end here: no transaction runs and none has been begun (R208). -/
def resting : Phase → Bool
  | fresh => true
  | between => true
  | primed => true
  | written => true
  | reported => true
  | _ => false

end Phase

/-- The events of a whole command are in the order the hazards ask for (R140, R143, R205 to R211). -/
def Disciplined (c : Config) (es : List Event) : Prop := ∃ p, Phase.run c .fresh es = some p ∧ p.resting = true

/-! ### Views of a TRACE -/

/-- The values written to DATAOUT, in order. -/
def dataoutWords : List Event → List Word
  | [] => []
  | .write .dataout v :: es => v :: dataoutWords es
  | _ :: es => dataoutWords es

/-- The values read from DATAIN, in order. -/
def datainWords : List Event → List Word
  | [] => []
  | .read .datain v :: es => v :: datainWords es
  | _ :: es => datainWords es

/-- The time-units waited at least (R221). -/
def delayTotal : List Event → Nat
  | [] => 0
  | .delay n :: es => n + delayTotal es
  | _ :: es => delayTotal es

/-- The events that frame the MAPPER's transactions: page selects, byte counts, starts and delays. -/
def Event.isControl : Event → Bool
  | .write .devaddr _ => true
  | .write .bytecnt _ => true
  | .write .startxfr _ => true
  | .delay _ => true
  | _ => false

/-- The framing events of a TRACE, in order. -/
def controls (es : List Event) : List Event := es.filter Event.isControl

/-- The accesses only BUS_INIT makes (R167). -/
def Event.isInitOnly : Event → Bool
  | .write .rstctrl _ => true
  | .write .config _ => true
  | .write .clkdiv _ => true
  | .read .rstctrl _ => true
  | _ => false

/-- A timeout of BUSW's per-byte poll. -/
def Timeout.isTx : Timeout → Bool
  | .tx _ => true
  | _ => false

/-- A timeout of BUSR's per-byte poll. -/
def Timeout.isRx : Timeout → Bool
  | .rx _ => true
  | _ => false

/-! ### What the spec says the TRACE of a transaction holds -/

/-- The seven events of BUS_INIT where RSTCTRL answers `v` (R105 to R107). -/
def initEvents (c : Config) (v : Word) : List Event :=
  [.read .rstctrl v, .write .rstctrl (v ||| c.rstMask), .write .rstctrl (v &&& ~~~c.rstMask),
   .delay Config.tResetSettle, .write .config Config.cfgDefault, .write .clkdiv c.clkdivWord,
   .write .devaddr 0x28#32]

/-- The shadows BUS_INIT leaves (R40, R106). -/
def initShadow (c : Config) : CtrlRegs :=
  { c.ctrlReset with config := Config.cfgDefault, clkdiv := c.clkdivWord, devaddr := 0x28#32 }

/-- `0x28 | a[10:8]`, the DEVADDR value of a logical address (R131, R132). -/
def selectedDevice (a : Word) : Word := 0x28#32 ||| (a.extractLsb' 8 3).setWidth 32

/-- The DEVADDR write before a transaction at `a`, with one-byte addressing (R131, R143). -/
def selectEvents (c : Config) (a : Word) : List Event :=
  if c.addrBytes = 1 then [.write .devaddr (selectedDevice a)] else []

/-- The address bytes of `a` in bus order (R55, R133). -/
def addressBytes (c : Config) (a : Word) : List Byte :=
  if c.addrBytes = 1 then [a.lowByte] else [a.highByte, a.lowByte]

/-- The bytes of a write transaction in bus order: the address bytes, then `n` bytes of BUF from `bo` on (R109). -/
def wireBytes (s : State) (a : Word) (bo n : Nat) : List Byte :=
  addressBytes s.cfg a ++ (List.range n).map (fun k => s.bufByte (bo + k))

/-- One payload-carrying transaction of the MAPPER: its first logical address, the BUF offset of its payload, its
length. -/
structure Slice where
  addr : Word
  offset : Nat
  len : Nat
  deriving DecidableEq, Repr

/-- The transactions that carry `n` bytes from `a`: full blocks of `size` bytes, then the tail byte by byte (R136,
R141, R142). -/
def slices (size : Nat) (a : Word) (n : Nat) : List Slice :=
  (List.range (n / size)).map (fun b => ⟨a + BitVec.ofNat 32 (size * b), size * b, size⟩) ++
  (List.range (n % size)).map
    (fun k => ⟨a + BitVec.ofNat 32 (size * (n / size) + k), size * (n / size) + k, 1⟩)

/-- The transactions of EERD1 (R137). -/
def byteSlices (a : Word) (n : Nat) : List Slice :=
  (List.range n).map (fun k => ⟨a + BitVec.ofNat 32 k, k, 1⟩)

/-- The framing of one `ReadAt` (R134): page select, dummy write, read. -/
def readAtControls (c : Config) (p : Slice) : List Event :=
  selectEvents c p.addr ++
    [.write .bytecnt (BitVec.ofNat 32 (c.addrBytes - 1)), .write .startxfr Config.startWrite,
     .write .bytecnt (BitVec.ofNat 32 (p.len - 1)), .write .startxfr Config.startRead]

/-- The framing of one `WriteAt` (R139): page select, one write transaction, the delay. -/
def writeAtControls (c : Config) (p : Slice) : List Event :=
  selectEvents c p.addr ++
    [.write .bytecnt (BitVec.ofNat 32 (p.len + c.addrBytes - 1)), .write .startxfr Config.startWrite,
     .delay Config.tWriteCycle]

/-- The last value written to a register, or `d` if none was. -/
def lastWritten (r : OutReg) (d : Word) : List Event → Word
  | [] => d
  | .write r' v :: es => lastWritten r (if r' = r then v else d) es
  | _ :: es => lastWritten r d es

/-- The shadow of a written controller register (R28); RSTCTRL has none. -/
def shadowOf (c : CtrlRegs) : OutReg → Option Word
  | .config => some c.config
  | .clkdiv => some c.clkdiv
  | .devaddr => some c.devaddr
  | .dataout => some c.dataout
  | .startxfr => some c.startxfr
  | .bytecnt => some c.bytecnt
  | .rstctrl => none

/-- The commands that begin with BUS_INIT (R160, R162, R164). -/
def beginsWithInit : Instr → Bool
  | .init _ _ => true
  | .read _ _ => true
  | .write _ _ => true
  | .dump _ _ => false
  | .busw _ _ => false
  | .busr _ _ => false
  | .eerd _ _ => false
  | .eerd1 _ _ => false
  | .eewr _ _ => false

/-- The same command at another logical address. -/
def withAddress (a : Word) : Instr → Instr
  | .init _ n => .init a n
  | .read _ n => .read a n
  | .write _ n => .write a n
  | .dump _ n => .dump a n
  | .busw _ n => .busw a n
  | .busr _ n => .busr a n
  | .eerd _ n => .eerd a n
  | .eerd1 _ n => .eerd1 a n
  | .eewr _ n => .eewr a n

/-- The event of each label of R117, up to the value read or written. -/
def Label.Emits : Label → Event → Prop
  | .i1, .read .rstctrl _ => True
  | .i2, .write .rstctrl _ => True
  | .i3, .write .rstctrl _ => True
  | .i4, .delay n => n = Config.tResetSettle
  | .i5, .write .config _ => True
  | .i6, .write .clkdiv _ => True
  | .i7, .write .devaddr _ => True
  | .w1, .write .bytecnt _ => True
  | .w2, .write .dataout _ => True
  | .w3, .write .startxfr v => v = Config.startWrite
  | .w4, .read .status _ => True
  | .w5, .write .dataout _ => True
  | .w6, .read .status _ => True
  | .r1, .write .bytecnt _ => True
  | .r2, .write .startxfr v => v = Config.startRead
  | .r3, .read .status _ => True
  | .r4, .read .datain _ => True
  | .r5, .read .status _ => True
  | .p1, .write .devaddr _ => True
  | .e1, .delay n => n = Config.tWriteCycle
  | .u1, .report => True
  | _, _ => False

/-! ### States that agree on what is architectural -/

/-- Equal but for the TRACE and the ghost record of timeouts. -/
def SameButGhosts (s t : State) : Prop := (s.withTrace t.trace).withTimeouts t.timeouts = t

/-- Equal but for the working registers. -/
def SameButWork (s t : State) : Prop := s.withWork t.work = t

/-! ### The invariant -/

/-- BUF is canonical and holds no byte outside `0 .. BUF_SIZE-1` (R27, R68). -/
def BufOk (s : State) : Prop := Memory.wf s.buf ∧ ∀ x ∈ s.buf, x.1 < s.cfg.bufSize

/-- Every shadow holds `CTRL_RESET` or a value SEQ may write; ADDR is never written (R28 to R37, R40). -/
structure ShadowOk (c : Config) (r : CtrlRegs) : Prop where
  config : r.config = c.ctrlReset.config ∨ r.config = Config.cfgDefault
  clkdiv : r.clkdiv = c.ctrlReset.clkdiv ∨ r.clkdiv = c.clkdivWord
  devaddr : r.devaddr = c.ctrlReset.devaddr ∨ ∃ sel : BitVec 3, r.devaddr = 0x28#32 ||| sel.setWidth 32
  addr : r.addr = c.ctrlReset.addr
  dataout : r.dataout = c.ctrlReset.dataout ∨ ∃ b : Byte, r.dataout = b.toWord
  startxfr : r.startxfr = c.ctrlReset.startxfr ∨ r.startxfr = Config.startWrite ∨ r.startxfr = Config.startRead
  bytecnt : r.bytecnt = c.ctrlReset.bytecnt ∨ r.bytecnt.toNat ≤ c.bufSize + c.addrBytes - 1

/-- ENV_IDEAL's EEPROM is canonical, holds no byte outside it, and the pointer is inside it (R66). -/
def EnvOk (s : State) : Prop :=
  match s.env with
  | .oracle _ _ => True
  | .ideal e => Memory.wf e.mem ∧ (∀ x ∈ e.mem, x.1 < s.cfg.eepromSize) ∧ e.ptr < s.cfg.eepromSize

/-- Where the MAPPER's loops stand: the latched length fits BUF, the block counts are those of R134 or R139, and the
current slice is inside it. -/
def SliceOk (size : Word) (s : State) : Prop :=
  s.work.len.toNat ≤ s.cfg.bufSize ∧ s.work.nblk = s.work.len / size ∧ s.work.rem = s.work.len % size ∧
  ((s.work.b < s.work.nblk ∧ s.work.bo = size * s.work.b) ∨
   (s.work.b = s.work.nblk ∧ s.work.k < s.work.rem ∧ s.work.bo = size * s.work.nblk + s.work.k))

/-- Where a reading MAPPER operation stands. -/
def ReadCaller.Ok (c : ReadCaller) (s : State) : Prop :=
  match c with
  | .read => SliceOk Config.rdBlock s
  | .eerd => SliceOk Config.rdBlock s
  | .eerd1 => s.work.len.toNat ≤ s.cfg.bufSize ∧ s.work.k < s.work.len ∧ s.work.bo = s.work.k

/-- Where the caller of a page select stands. -/
def SelectCaller.Ok (c : SelectCaller) (s : State) : Prop :=
  match c with
  | .reading r => r.Ok s
  | .writing _ => SliceOk Config.wrBlock s

/-- Where the caller of BUSW stands, and the payload it gave. -/
def BuswCaller.Ok (c : BuswCaller) (s : State) : Prop :=
  match c with
  | .command => s.work.bo = 0#32 ∧ s.work.tn.toNat ≤ s.cfg.bufSize
  | .reading r => r.Ok s ∧ s.work.tn = 0#32
  | .writing _ => SliceOk Config.wrBlock s ∧ s.work.tn = payloadOf Config.wrBlock s

/-- Where the caller of BUSR stands, and the length it gave. -/
def BusrCaller.Ok (c : BusrCaller) (s : State) : Prop :=
  match c with
  | .command => s.work.bo = 0#32 ∧ s.work.tn.toNat ≤ s.cfg.bufSize ∧ s.work.tn ≠ 0#32
  | .reading r => r.Ok s ∧ s.work.tn = readPayload r s

/-- The loop registers at the event of `u`, all updates before it made: what makes every BUF index and every count of
the running command legal (R68, R102, R103, R108, R111). -/
def Upc.Ok (u : Upc) (s : State) : Prop :=
  match u with
  | .busInit .init _ => True
  | .busInit .read _ => s.work.len.toNat ≤ s.cfg.bufSize
  | .busInit .write _ => s.work.len.toNat ≤ s.cfg.bufSize
  | .select c => c.Ok s ∧ s.cfg.addrBytes = 1
  | .busw c l =>
    c.Ok s ∧ s.work.tot = s.work.tn + s.cfg.addrWord ∧
    match l with
    | .w4 => s.work.i < s.work.tot - 1#32 ∧ s.work.j.toNat < s.cfg.maxBusyLoop
    | .w5 => s.work.i < s.work.tot - 1#32
    | .w6 => s.work.j.toNat < s.cfg.busyLoop
    | _ => True
  | .busr c l =>
    c.Ok s ∧
    match l with
    | .r3 => s.work.i < s.work.tn ∧ s.work.j.toNat < s.cfg.maxBusyLoop
    | .r4 => s.work.i < s.work.tn
    | .r5 => s.work.j.toNat < s.cfg.busyLoop
    | _ => True
  | .writeDelay _ => SliceOk Config.wrBlock s
  | .report => True

/-- The invariant every step keeps. Inside a command the updates still to come lead to the statement `upc` names, and
with them made the loop registers are as its event needs them (R25). -/
structure State.Inv (s : State) : Prop where
  buf : BufOk s
  shadow : ShadowOk s.cfg s.shadow
  page : s.work.page.getLsbD 0 = false
  env : EnvOk s
  upc : ∀ u last, s.run = .busy u last →
    (pending last s).1 = some u ∧ BufOk (pending last s).2 ∧ (pending last s).2.work.page.getLsbD 0 = false ∧
      u.Ok (pending last s).2

end Sys2Proof.Machine
end

