-- ==== Sys2Proof/Certificates/Slice0/Obligations.lean ====
section
/-! DEFINITION. The statements for the provers. `Accepts i s` is the condition of acceptance on the state and the
operands alone (R70, R77, R78, R194). Every statement is about every state, every answer of ENV and every parameter
the rules allow: the ENV and the parameters are part of the state. -/

open Sys2Proof Sys2Proof.Machine

/-! ### Encoding and acceptance -/

/-- R73, R74: the nine opcodes, and the operand words as they stand. That every LENGTH decodes, WRITE's outside 1, 2, 4
and BUSR's 0 among them, is the model's reading, log entry 14: R71 and section 2.7 of 95_test_vectors.md count the
refusals of R77 and R78 to decoding, the model makes them at acceptance (WriteSizeIsChecked, LengthIsChecked). -/
def Obligations.CommandWordsDecodeToTheirCommands : Prop :=
  ∀ a n : Word,
    decode [0x00000000#32, a, n] = .ok (.init a n) ∧ decode [0x00000001#32, a, n] = .ok (.read a n) ∧
    decode [0x00000002#32, a, n] = .ok (.write a n) ∧ decode [0x00000003#32, a, n] = .ok (.dump a n) ∧
    decode [0x00000010#32, a, n] = .ok (.busw a n) ∧ decode [0x00000011#32, a, n] = .ok (.busr a n) ∧
    decode [0x00000020#32, a, n] = .ok (.eerd a n) ∧ decode [0x00000021#32, a, n] = .ok (.eerd1 a n) ∧
    decode [0x00000022#32, a, n] = .ok (.eewr a n)

/-- Every command has exactly one spelling, and the decoder reads it back (R73, R74, R76). That the decoder answers
WRITE with a LENGTH outside 1, 2, 4, BUSR with 0 and a LENGTH above `BUF_SIZE`, which R71 refuses in decoding, and
answers nothing for a list that is not three words, is the model's reading, log entry 14. -/
def Obligations.DecodeInvertsEncode : Prop :=
  ∀ (ws : List Word) (i : Instr), decode ws = .ok i ↔ ws = encode i

/-- R76: the reserved opcodes and a non-zero `ZERO` field are refused by name. -/
def Obligations.ReservedCommandWordsAreRefused : Prop :=
  ∀ (s : State) (c : CommandWord) (rest : List HostMove), s.cfg.Valid → s.run = .idle → s.host = .present c :: rest →
    (256 ≤ c.cw0.toNat → step s = .refused (.undecodable .zeroField)) ∧
    ((4 ≤ c.cw0.toNat ∧ c.cw0.toNat ≤ 0xF) ∨ (0x12 ≤ c.cw0.toNat ∧ c.cw0.toNat ≤ 0x1F) ∨
        (0x23 ≤ c.cw0.toNat ∧ c.cw0.toNat ≤ 0xFF) →
      step s = .refused (.undecodable .reservedOpcode))

/-- A presented command word that decodes is run by `exec`, HOST's move consumed (R70, R71). That one step runs the
whole command is the model's choice, log entries 6 and 9. -/
def Obligations.StepRunsThePresentedCommand : Prop :=
  ∀ (s : State) (c : CommandWord) (rest : List HostMove) (i : Instr), s.cfg.Valid → s.run = .idle →
    s.host = .present c :: rest → decode [c.cw0, c.cw1, c.cw2] = .ok i → step s = exec i (s.withHost rest)

/-- Without a move of HOST an `IDLE` SEQ does nothing; a fill puts HOST's bytes at `BUF[0 ..]` and changes nothing
else (R23, R27, R200). HOST as a list of moves is the model's choice, log entry 10. -/
def Obligations.IdleStepWaitsOrFillsBuf : Prop :=
  ∀ s : State, s.cfg.Valid → s.run = .idle →
    (s.host = [] → step s = .next s) ∧
    (∀ bytes rest, s.host = .fill bytes :: rest → bytes.length ≤ s.cfg.bufSize →
      ∃ t, step s = .next t ∧ (∀ i (h : i < bytes.length), t.bufByte i = bytes[i]) ∧
        (∀ i, bytes.length ≤ i → t.bufByte i = s.bufByte i) ∧ t = (s.withHost rest).withBuf t.buf)

/-- R77: WRITE takes LENGTH 1, 2 or 4 only; EEWR also takes 0. -/
def Obligations.WriteSizeIsChecked : Prop :=
  ∀ (s : State) (a n : Word), s.cfg.Valid → s.run = .idle →
    (n ≠ 1#32 ∧ n ≠ 2#32 ∧ n ≠ 4#32 → exec (.write a n) s = .refused .writeSize) ∧
    (n = 1#32 ∨ n = 2#32 ∨ n = 4#32 → ∃ t, exec (.write a n) s = .next t) ∧
    (n.toNat ≤ s.cfg.bufSize → ∃ t, exec (.eewr a n) s = .next t)

/-- R78: LENGTH above `BUF_SIZE` and BUSR with 0 are refused; LENGTH 0 is accepted by the other commands. -/
def Obligations.LengthIsChecked : Prop :=
  ∀ (s : State) (a n : Word), s.cfg.Valid → s.run = .idle →
    (s.cfg.bufSize < n.toNat →
      exec (.read a n) s = .refused .lengthAboveBuf ∧ exec (.busw a n) s = .refused .lengthAboveBuf ∧
      exec (.busr a n) s = .refused .lengthAboveBuf ∧ exec (.eerd a n) s = .refused .lengthAboveBuf ∧
      exec (.eerd1 a n) s = .refused .lengthAboveBuf ∧ exec (.eewr a n) s = .refused .lengthAboveBuf) ∧
    exec (.busr a 0#32) s = .refused .busrZero ∧
    (∃ t, exec (.read a 0#32) s = .next t) ∧ (∃ t, exec (.eerd a 0#32) s = .next t) ∧
    (∃ t, exec (.eerd1 a 0#32) s = .next t) ∧ (∃ t, exec (.eewr a 0#32) s = .next t) ∧
    (∃ t, exec (.busw a 0#32) s = .next t)

/-- Parameters out of range are refused whatever is asked, `ADDR_BYTES` and `CLKDIV` among them (R9, R194); which other
ranges the check covers is the model's reading, log entry 11. -/
def Obligations.BadParametersAreRefused : Prop :=
  ∀ s : State,
    (¬s.cfg.Valid → step s = .refused .configuration ∧ ∀ i, exec i s = .refused .configuration) ∧
    ((s.cfg.addrBytes ≠ 1 ∧ s.cfg.addrBytes ≠ 2) ∨ s.cfg.clkdiv = 0 ∨ 0xFFFF < s.cfg.clkdiv → ¬s.cfg.Valid)

/-- While `RUN = BUSY` HOST has no move: no command is taken, and a step is SEQ's own and leaves HOST's moves (R70,
R116, R195). The refusal's name is the model's, log entry 15. -/
def Obligations.BusySeqTakesNoCommandAndGoesOn : Prop :=
  ∀ (s : State) (u : Upc) (last : Option Upc), s.cfg.Valid → s.run = .busy u last →
    (∀ i, exec i s = .refused .commandWhileBusy) ∧ ∃ t, step s = .next t ∧ t.host = s.host

/-- Every accepted command runs to its end, whatever ENV answers, and none but an accepted one does: `RUN` is `IDLE`
again, the operands are latched, the parameters and HOST's later moves are as before, the TRACE and the ghost record
have only grown (R23, R71, R116, R180). -/
def Obligations.ExactlyAcceptedCommandsComplete : Prop :=
  ∀ (i : Instr) (s : State),
    ((∃ t, exec i s = .next t) ↔ Accepts i s) ∧
    (Accepts i s → ∃ t, exec i s = .next t ∧ t.run = .idle ∧ t.upc = none ∧ t.cfg = s.cfg ∧ t.host = s.host ∧
      t.work.op = i.opcode ∧ t.work.addr = i.address ∧ t.work.len = i.length ∧
      (∃ evs, t.trace = s.trace ++ evs) ∧ ∃ ts, t.timeouts = s.timeouts ++ ts)

/-! ### BUS_INIT and the driver-level commands -/

/-- R105, R106, R160: the seven events in order, the two RSTCTRL words computed from the one word read, the shadows;
BUF, the ghost record and the MAPPER's registers are as before. The divider `d` is 375 on the production board and
`CLKDIV_SIM` on the simulation board (R7, R30). -/
def Obligations.InitPulsesResetAndWritesDefaults : Prop :=
  ∀ (s : State) (a n : Word), Accepts (.init a n) s →
    ∃ t v d, exec (.init a n) s = .next t ∧ v = (s.env.answer s.cfg .rstctrl).1 ∧
      (s.cfg.board = .prod → d = 0x00000177#32) ∧
      (s.cfg.board = .sim → d = BitVec.ofNat 32 s.cfg.clkdivSim) ∧
      t.trace = s.trace ++
        [.read .rstctrl v, .write .rstctrl (v ||| s.cfg.rstMask), .write .rstctrl (v &&& ~~~s.cfg.rstMask),
         .delay 500, .write .config 0x000000FA#32, .write .clkdiv d, .write .devaddr 0x00000028#32] ∧
      t.rstctrl = v &&& ~~~s.cfg.rstMask ∧
      t.shadow =
        { config := 0x000000FA#32, clkdiv := d, devaddr := 0x00000028#32,
          addr := s.cfg.ctrlReset.addr, dataout := s.cfg.ctrlReset.dataout,
          startxfr := s.cfg.ctrlReset.startxfr, bytecnt := s.cfg.ctrlReset.bytecnt } ∧
      t.buf = s.buf ∧ t.timeouts = s.timeouts ∧ t.run = .idle ∧ t.cfg = s.cfg ∧ t.host = s.host ∧
      t.work = { s.work with op := 0x00#8, addr := a, len := n, v := v }

/-- R161: a second INIT leaves the shadows as the first left them, emits seven more events and waits 500 more
time-units; RSTCTRL too is as before if it reads back what was last written (R107). -/
def Obligations.InitIsIdempotentOnTheShadows : Prop :=
  ∀ (s : State) (a n b m : Word), Accepts (.init a n) s →
    ∃ t u evs, exec (.init a n) s = .next t ∧ exec (.init b m) t = .next u ∧ u.shadow = t.shadow ∧
      u.trace = s.trace ++ evs ∧ evs.length = 14 ∧ delayTotal evs = 1000 ∧
      ((t.env.answer t.cfg .rstctrl).1 = t.rstctrl → u.rstctrl = t.rstctrl)

/-- R166: DUMP emits its report and changes nothing but the latched operands. -/
def Obligations.DumpOnlyReports : Prop :=
  ∀ (s : State) (a n : Word), Accepts (.dump a n) s →
    exec (.dump a n) s =
      .next { s with work := { s.work with op := 0x03#8, addr := a, len := n }, trace := s.trace ++ [.report] }

/-- R162: READ is INIT followed by EERD; only the latched opcode differs. -/
def Obligations.ReadIsInitThenEerd : Prop :=
  ∀ (s : State) (a n : Word), Accepts (.read a n) s →
    ∃ t u v, exec (.init a n) s = .next u ∧ exec (.eerd a n) u = .next v ∧ exec (.read a n) s = .next t ∧
      t = v.withWork { v.work with op := 0x01#8 }

/-- R164: WRITE is INIT followed by EEWR; only the latched opcode differs. -/
def Obligations.WriteIsInitThenEewr : Prop :=
  ∀ (s : State) (a n : Word), Accepts (.write a n) s →
    ∃ t u v, exec (.init a n) s = .next u ∧ exec (.eewr a n) u = .next v ∧ exec (.write a n) s = .next t ∧
      t = v.withWork { v.work with op := 0x02#8 }

/-- READ: BUS_INIT's seven events, then one `ReadAt` per 16-byte block and per tail byte; with length 0 nothing more.
A BUF byte is one that DATAIN gave or the byte before; bytes at `length` and above are as before (R162, R163). -/
def Obligations.ReadDecomposesAndFillsBuf : Prop :=
  ∀ (s : State) (a n : Word), Accepts (.read a n) s →
    ∃ t rest, exec (.read a n) s = .next t ∧
      t.trace = s.trace ++ (initEvents s.cfg (s.env.answer s.cfg .rstctrl).1 ++ rest) ∧
      controls rest = (slices 16 a n.toNat).flatMap (readAtControls s.cfg) ∧ (n = 0#32 → rest = []) ∧
      (∀ i, n.toNat ≤ i → t.bufByte i = s.bufByte i) ∧
      ∀ i, i < n.toNat → t.bufByte i = s.bufByte i ∨ ∃ w ∈ datainWords rest, t.bufByte i = w.lowByte

/-- WRITE: BUS_INIT's seven events, then `size` single-byte transactions, each followed by the 5000-unit delay; the
total wait is at least `500 + 5000 * size`; BUF is as before (R164, R165). -/
def Obligations.WriteSendsSingleBytes : Prop :=
  ∀ (s : State) (a n : Word), Accepts (.write a n) s →
    ∃ t rest, exec (.write a n) s = .next t ∧
      t.trace = s.trace ++ (initEvents s.cfg (s.env.answer s.cfg .rstctrl).1 ++ rest) ∧
      controls rest = (byteSlices a n.toNat).flatMap (writeAtControls s.cfg) ∧
      delayTotal rest = 5000 * n.toNat ∧ t.buf = s.buf

/-! ### The ENGINE -/

/-- R53, R54, R64, R104: a read takes ENV's answer into `V` and appends `R(reg, v)`; a write appends `W(reg, v)`, sets
the shadow of the register (RSTCTRL has none) and is seen by ENV; a delay appends `D(n)`. Nothing else changes,
whatever ENV is. An oracle answers what it lists, in order, and a write does not touch it. -/
def Obligations.BusAccessesAppendTheirEvent : Prop :=
  ∀ s : State,
    (∀ r, busRead r s =
      { s with
        work := { s.work with v := (s.env.answer s.cfg r).1 }
        env := (s.env.answer s.cfg r).2
        trace := s.trace ++ [.read r (s.env.answer s.cfg r).1] }) ∧
    (∀ r w, ∃ c, busWrite r w s =
        { s with
          shadow := c
          rstctrl := if r = .rstctrl then w else s.rstctrl
          env := s.env.observe s.cfg r w
          trace := s.trace ++ [.write r w] } ∧
      c.addr = s.shadow.addr ∧ (r ≠ .rstctrl → shadowOf c r = some w) ∧
      ∀ r', r' ≠ r → shadowOf c r' = shadowOf s.shadow r') ∧
    (∀ n, delay n s = { s with trace := s.trace ++ [.delay n] }) ∧
    (∀ rest d v r, s.env = .oracle (v :: rest) d → s.env.answer s.cfg r = (v, .oracle rest d)) ∧
    ∀ ans d r w, s.env = .oracle ans d → s.env.observe s.cfg r w = s.env

/-- R102: a per-byte poll takes between 1 and `MAX_BUSY_LOOP` samples, all but the last without the bit; it answers
true exactly if the last has the bit, and false only after `MAX_BUSY_LOOP` samples; the samples are ENV's answers in
order; `J` counts the samples without the bit, and nothing but `J` and `V` is written. -/
def Obligations.PollSetSamplesUntilTheBitOrTheBound : Prop :=
  ∀ (s : State) (test : Word → Bool) (bit : Nat), 1 ≤ s.cfg.maxBusyLoop →
    (bit = 1 ∧ test = statusTxEmpty) ∨ (bit = 2 ∧ test = statusDataReady) →
    ∃ (vs : List Word) (v : Word) (e : Env), vs.length + 1 ≤ s.cfg.maxBusyLoop ∧
      (∀ w ∈ vs, w.getLsbD bit = false) ∧ (pollSet test s).1 = v.getLsbD bit ∧
      (v.getLsbD bit = false → vs.length + 1 = s.cfg.maxBusyLoop) ∧
      (∀ ans d, s.env = .oracle ans d → vs.length + 1 ≤ ans.length →
        vs ++ [v] = ans.take (vs.length + 1) ∧ e = .oracle (ans.drop (vs.length + 1)) d) ∧
      (pollSet test s).2 =
        { s with
          work :=
            { s.work with j := BitVec.ofNat 32 (vs.length + if v.getLsbD bit then 0 else 1), v := v }
          env := e
          trace := s.trace ++ (vs ++ [v]).map (Event.read .status) }

/-- R103: `WaitIdle` takes between 1 and `BUSY_LOOP` samples, all but the last with BUSY set, and stops at the first
with BUSY clear; a timeout leaves only the ghost record. -/
def Obligations.WaitIdleSamplesUntilIdleOrTheBound : Prop :=
  ∀ (s : State) (mark : Timeout), 1 ≤ s.cfg.busyLoop →
    ∃ (vs : List Word) (v : Word) (e : Env), vs.length + 1 ≤ s.cfg.busyLoop ∧ (∀ w ∈ vs, w.getLsbD 0 = true) ∧
      (v.getLsbD 0 = true → vs.length + 1 = s.cfg.busyLoop) ∧
      (∀ ans d, s.env = .oracle ans d → vs.length + 1 ≤ ans.length →
        vs ++ [v] = ans.take (vs.length + 1) ∧ e = .oracle (ans.drop (vs.length + 1)) d) ∧
      waitIdle mark s =
        { s with
          work := { s.work with j := BitVec.ofNat 32 (vs.length + if v.getLsbD 0 then 1 else 0), v := v }
          env := e
          trace := s.trace ++ (vs ++ [v]).map (Event.read .status)
          timeouts := s.timeouts ++ (if v.getLsbD 0 then [mark] else []) }

/-- BUSW: BYTECNT with the total length minus 1, the first address byte, STARTXFR = write, then only STATUS reads and
DATAOUT writes. The bytes are chosen by position: address bytes high first, then `BUF[0 ..]`, and a position whose
poll timed out sends nothing (R108 to R110). -/
def Obligations.BuswSendsTheBytesByPosition : Prop :=
  ∀ (s : State) (a n : Word), Accepts (.busw a n) s →
    ∃ t rest ts, exec (.busw a n) s = .next t ∧
      t.trace = s.trace ++
        ([.write .bytecnt (BitVec.ofNat 32 (n.toNat + s.cfg.addrBytes - 1)),
          .write .dataout ((wireBytes s a 0 n.toNat).headD 0#8).toWord, .write .startxfr 0x00000000#32] ++ rest) ∧
      t.timeouts = s.timeouts ++ ts ∧
      (∀ e ∈ rest, (∃ v, e = .read .status v) ∨ ∃ v, e = .write .dataout v) ∧
      dataoutWords rest =
        ((List.range (n.toNat + s.cfg.addrBytes - 1)).filter
          (fun p => decide (Timeout.tx (BitVec.ofNat 32 p) ∉ ts))).map
          (fun p => ((wireBytes s a 0 n.toNat).getD (p + 1) 0#8).toWord)

/-- The frame of BUSW: BUF, RSTCTRL, the shadows of CONFIG, CLKDIV, DEVADDR and ADDR, the registers BUSW does not
name, the parameters and HOST's moves are as before (R108, R110). -/
def Obligations.BuswFrame : Prop :=
  ∀ (s : State) (a n : Word), Accepts (.busw a n) s →
    ∃ t, exec (.busw a n) s = .next t ∧ t.buf = s.buf ∧ t.rstctrl = s.rstctrl ∧ t.cfg = s.cfg ∧ t.host = s.host ∧
      t.run = .idle ∧
      t.shadow =
        { s.shadow with
          bytecnt := BitVec.ofNat 32 (n.toNat + s.cfg.addrBytes - 1), startxfr := 0x00000000#32,
          dataout := t.shadow.dataout } ∧
      t.work =
        { s.work with
          op := 0x10#8, addr := a, len := n, ta := a, bo := 0#32, tn := n, tot := t.work.tot, i := t.work.i,
          j := t.work.j, v := t.work.v } ∧
      t.work.tot = n + BitVec.ofNat 32 s.cfg.addrBytes ∧
      t.work.i = BitVec.ofNat 32 (n.toNat + s.cfg.addrBytes - 1)

/-- BUSR: BYTECNT with the length minus 1, STARTXFR = read, then only STATUS and DATAIN reads. A position whose poll
succeeded takes the next DATAIN word's low byte; every other byte of BUF is as before (R111, R112, R114). -/
def Obligations.BusrFillsBufByPosition : Prop :=
  ∀ (s : State) (a n : Word), Accepts (.busr a n) s →
    ∃ (t : State) (rest : List Event) (ts : List Timeout) (hits : List Nat),
      exec (.busr a n) s = .next t ∧
      t.trace = s.trace ++ ([.write .bytecnt (n - 1#32), .write .startxfr 0x00000001#32] ++ rest) ∧
      t.timeouts = s.timeouts ++ ts ∧
      (∀ e ∈ rest, (∃ v, e = .read .status v) ∨ ∃ v, e = .read .datain v) ∧
      hits = (List.range n.toNat).filter (fun p => decide (Timeout.rx (BitVec.ofNat 32 p) ∉ ts)) ∧
      (datainWords rest).length = hits.length ∧
      (∀ p ∈ hits.zip (datainWords rest), t.bufByte p.1 = p.2.lowByte) ∧
      ∀ i, i ∉ hits → t.bufByte i = s.bufByte i

/-- The frame of BUSR: RSTCTRL, all shadows but BYTECNT and STARTXFR, the registers BUSR does not name, the
parameters and HOST's moves are as before (R111). -/
def Obligations.BusrFrame : Prop :=
  ∀ (s : State) (a n : Word), Accepts (.busr a n) s →
    ∃ t, exec (.busr a n) s = .next t ∧ t.rstctrl = s.rstctrl ∧ t.cfg = s.cfg ∧ t.host = s.host ∧ t.run = .idle ∧
      t.shadow = { s.shadow with bytecnt := n - 1#32, startxfr := 0x00000001#32 } ∧
      t.work =
        { s.work with
          op := 0x11#8, addr := a, len := n, bo := 0#32, tn := n, i := n, j := t.work.j, v := t.work.v }

/-- BUSW and BUSR end with the completion poll, even if every position timed out: `evs` comes to where the last byte
position has been handled and no completion sample taken, and from there on there are only STATUS samples, at most
`BUSY_LOOP`: the last one has BUSY clear, or there are `BUSY_LOOP` samples with BUSY set and the timeout is on record
(R103, R110, R114, R208). -/
def Obligations.TransactionsEndWithTheCompletionPoll : Prop :=
  ∀ (s : State) (i : Instr) (a n : Word), i = .busw a n ∨ i = .busr a n → Accepts i s →
    ∃ t evs ts vs v transfer, exec i s = .next t ∧
      t.trace = s.trace ++ evs ++ (vs ++ [v]).map (Event.read .status) ∧ t.timeouts = s.timeouts ++ ts ∧
      Phase.run s.cfg .fresh evs = some (.moving transfer 0 0) ∧ (transfer = .read ↔ i = .busr a n) ∧
      vs.length + 1 ≤ s.cfg.busyLoop ∧ (∀ w ∈ vs, w.getLsbD 0 = true) ∧
      (v.getLsbD 0 = true → vs.length + 1 = s.cfg.busyLoop) ∧
      (v.getLsbD 0 = true ↔ Timeout.busyW ∈ ts ∨ Timeout.busyR ∈ ts)

/-- The table of R116: BUS_INIT emits 7 events; BUSW and BUSR emit between the fewest (every poll succeeds at its
first sample) and the most. -/
def Obligations.EventCountsAreBounded : Prop :=
  ∀ (s : State) (a n : Word),
    (Accepts (.init a n) s →
      ∃ t evs, exec (.init a n) s = .next t ∧ t.trace = s.trace ++ evs ∧ evs.length = 7) ∧
    (Accepts (.busw a n) s →
      ∃ t evs, exec (.busw a n) s = .next t ∧ t.trace = s.trace ++ evs ∧
        3 + 2 * (n.toNat + s.cfg.addrBytes - 1) + 1 ≤ evs.length ∧
        evs.length ≤ 3 + (n.toNat + s.cfg.addrBytes - 1) * (s.cfg.clkdiv * 25 + 1) + s.cfg.clkdiv * 30) ∧
    (Accepts (.busr a n) s →
      ∃ t evs, exec (.busr a n) s = .next t ∧ t.trace = s.trace ++ evs ∧ 2 + 2 * n.toNat + 1 ≤ evs.length ∧
        evs.length ≤ 2 + n.toNat * (s.cfg.clkdiv * 25 + 1) + s.cfg.clkdiv * 30)

/-! ### The MAPPER -/

/-- R131, R132: with one-byte addressing one DEVADDR write of `0x28 + a[10:8]`, seen by ENV, and nothing else but
`PAGE`; with two-byte addressing nothing at all. That it stands before every transaction of the MAPPER is said by
EerdDecomposes, Eerd1Decomposes and EewrDecomposes. -/
def Obligations.PageSelectWritesTheSelector : Prop :=
  ∀ (s : State) (a v : Word), v = BitVec.ofNat 32 (0x28 + a.toNat / 256 % 8) →
    (s.cfg.addrBytes = 1 →
      pageSelect a s =
        { s with
          work := { s.work with page := BitVec.ofNat 4 (2 * (a.toNat / 256 % 8)) }
          shadow := { s.shadow with devaddr := v }
          env := s.env.observe s.cfg .devaddr v
          trace := s.trace ++ [.write .devaddr v] }) ∧
    (s.cfg.addrBytes = 2 → pageSelect a s = s)

/-- EERD: `k` 16-byte and `r` single-byte transactions in ascending order, each a page select, a dummy write and a
read; where no transmit poll times out the dummy writes send exactly the address bytes (R134, R136, R142, R143). -/
def Obligations.EerdDecomposes : Prop :=
  ∀ (s : State) (a n : Word), Accepts (.eerd a n) s →
    ∃ t evs ts, exec (.eerd a n) s = .next t ∧ t.trace = s.trace ++ evs ∧ t.timeouts = s.timeouts ++ ts ∧
      controls evs = (slices 16 a n.toNat).flatMap (readAtControls s.cfg) ∧
      ((∀ x ∈ ts, x.isTx = false) →
        dataoutWords evs =
          (slices 16 a n.toNat).flatMap (fun p => (addressBytes s.cfg p.addr).map Byte.toWord))

/-- EERD1: one single-byte transaction per byte, in ascending order (R137, R142, R143). -/
def Obligations.Eerd1Decomposes : Prop :=
  ∀ (s : State) (a n : Word), Accepts (.eerd1 a n) s →
    ∃ t evs ts, exec (.eerd1 a n) s = .next t ∧ t.trace = s.trace ++ evs ∧ t.timeouts = s.timeouts ++ ts ∧
      controls evs = (byteSlices a n.toNat).flatMap (readAtControls s.cfg) ∧
      ((∀ x ∈ ts, x.isTx = false) →
        dataoutWords evs = (byteSlices a n.toNat).flatMap (fun p => (addressBytes s.cfg p.addr).map Byte.toWord))

/-- EEWR: `k` 8-byte pages and `r` single bytes in ascending order, each a page select, one write transaction and the
5000-unit delay; where no transmit poll times out each transaction sends its address bytes and its slice of BUF
(R139 to R143). -/
def Obligations.EewrDecomposes : Prop :=
  ∀ (s : State) (a n : Word), Accepts (.eewr a n) s →
    ∃ t evs ts, exec (.eewr a n) s = .next t ∧ t.trace = s.trace ++ evs ∧ t.timeouts = s.timeouts ++ ts ∧
      controls evs = (slices 8 a n.toNat).flatMap (writeAtControls s.cfg) ∧
      ((∀ x ∈ ts, x.isTx = false) →
        dataoutWords evs =
          (slices 8 a n.toNat).flatMap (fun p => (wireBytes s p.addr p.offset p.len).map Byte.toWord))

/-- R144: the fewest and the most events of the MAPPER's commands, from the counts of R116 for each transaction. -/
def Obligations.MapperEventCountsAreBounded : Prop :=
  ∀ (i : Instr) (s : State) (a n : Word) (page addr sample last : Nat),
    page = (if s.cfg.addrBytes = 1 then 1 else 0) → addr = s.cfg.addrBytes → sample = s.cfg.clkdiv * 25 + 1 →
    last = s.cfg.clkdiv * 30 → Accepts i s →
    ∃ t evs, exec i s = .next t ∧ t.trace = s.trace ++ evs ∧
      (i = .eerd a n →
        n.toNat / 16 * (page + (3 + 2 * (addr - 1) + 1) + 35) + n.toNat % 16 * (page + (3 + 2 * (addr - 1) + 1) + 5) ≤
          evs.length ∧
        evs.length ≤
          n.toNat / 16 * (page + (3 + (addr - 1) * sample + last) + (2 + 16 * sample + last)) +
            n.toNat % 16 * (page + (3 + (addr - 1) * sample + last) + (2 + sample + last))) ∧
      (i = .eerd1 a n →
        n.toNat * (page + (3 + 2 * (addr - 1) + 1) + 5) ≤ evs.length ∧
        evs.length ≤ n.toNat * (page + (3 + (addr - 1) * sample + last) + (2 + sample + last))) ∧
      (i = .eewr a n →
        n.toNat / 8 * (page + 3 + 2 * (8 + addr - 1) + 1 + 1) + n.toNat % 8 * (page + 3 + 2 * addr + 1 + 1) ≤
          evs.length ∧
        evs.length ≤
          n.toNat / 8 * (page + 3 + (8 + addr - 1) * sample + last + 1) +
            n.toNat % 8 * (page + 3 + addr * sample + last + 1))

/-- EERD and EERD1 write BUF only below `LEN`; a byte there is one DATAIN gave or the byte before, and without a
receive timeout the bytes are DATAIN's, in order (R27, R112, R134, R137). -/
def Obligations.MapperReadsFillBuf : Prop :=
  ∀ (s : State) (i : Instr) (a n : Word), i = .eerd a n ∨ i = .eerd1 a n → Accepts i s →
    ∃ t evs ts, exec i s = .next t ∧ t.trace = s.trace ++ evs ∧ t.timeouts = s.timeouts ++ ts ∧
      (∀ k, n.toNat ≤ k → t.bufByte k = s.bufByte k) ∧
      (∀ k, k < n.toNat → t.bufByte k = s.bufByte k ∨ ∃ w ∈ datainWords evs, t.bufByte k = w.lowByte) ∧
      ((∀ x ∈ ts, x.isRx = false) →
        (datainWords evs).map Word.lowByte = (List.range n.toNat).map t.bufByte)

/-- The frame of the MAPPER's commands: RSTCTRL, the shadows of CONFIG, CLKDIV and ADDR, the parameters and HOST's
moves are as before; the shadow of DEVADDR and `PAGE` too with two-byte addressing; EEWR leaves BUF, EERD1 leaves the
block counters (R31, R141, R143). -/
def Obligations.MapperFrame : Prop :=
  ∀ (s : State) (i : Instr) (a n : Word), i = .eerd a n ∨ i = .eerd1 a n ∨ i = .eewr a n → Accepts i s →
    ∃ t, exec i s = .next t ∧ t.rstctrl = s.rstctrl ∧ t.cfg = s.cfg ∧ t.host = s.host ∧ t.run = .idle ∧
      t.shadow.config = s.shadow.config ∧ t.shadow.clkdiv = s.shadow.clkdiv ∧ t.shadow.addr = s.shadow.addr ∧
      (s.cfg.addrBytes = 2 → t.shadow.devaddr = s.shadow.devaddr ∧ t.work.page = s.work.page) ∧
      (i = .eewr a n → t.buf = s.buf) ∧
      t.work.op = i.opcode ∧ t.work.addr = a ∧ t.work.len = n ∧
      (i = .eerd a n →
        t.work.nblk = n / 16#32 ∧ t.work.rem = n % 16#32 ∧ t.work.b = n / 16#32 ∧ t.work.k = n % 16#32) ∧
      (i = .eerd1 a n →
        t.work.nblk = s.work.nblk ∧ t.work.rem = s.work.rem ∧ t.work.b = s.work.b ∧ t.work.k = n) ∧
      (i = .eewr a n →
        t.work.nblk = n / 8#32 ∧ t.work.rem = n % 8#32 ∧ t.work.b = n / 8#32 ∧ t.work.k = n % 8#32)

/-- R137: below 16 bytes EERD1 and EERD give the same TRACE, BUF, shadows and ENV. -/
def Obligations.ShortEerdIsEerd1 : Prop :=
  ∀ (s : State) (a n : Word), Accepts (.eerd a n) s → n.toNat < 16 →
    ∃ t u, exec (.eerd a n) s = .next t ∧ exec (.eerd1 a n) s = .next u ∧ u.trace = t.trace ∧ u.buf = t.buf ∧
      u.shadow = t.shadow ∧ u.env = t.env ∧ u.timeouts = t.timeouts

/-- With length 0 the MAPPER's commands emit no event and change nothing but the latched operands and their loop
registers (R136, R137, R141, R145). -/
def Obligations.ZeroLengthTransfersDoNothing : Prop :=
  ∀ (s : State) (a : Word),
    (Accepts (.eerd a 0#32) s →
      exec (.eerd a 0#32) s =
        .next { s with
          work := { s.work with op := 0x20#8, addr := a, len := 0#32, nblk := 0#32, rem := 0#32, b := 0#32, k := 0#32 } }) ∧
    (Accepts (.eerd1 a 0#32) s →
      exec (.eerd1 a 0#32) s =
        .next { s with work := { s.work with op := 0x21#8, addr := a, len := 0#32, k := 0#32 } }) ∧
    (Accepts (.eewr a 0#32) s →
      exec (.eewr a 0#32) s =
        .next { s with
          work := { s.work with op := 0x22#8, addr := a, len := 0#32, nblk := 0#32, rem := 0#32, b := 0#32, k := 0#32 } })

/-! ### The whole machine -/

/-- R28, R41: after a command every shadow of a register SEQ writes is the last value the command wrote there, or
what it was before; for a command that begins with BUS_INIT, `CTRL_RESET`. ADDR is never written. -/
def Obligations.ShadowsHoldTheLastWrites : Prop :=
  ∀ (i : Instr) (s : State), Accepts i s →
    ∃ t evs, exec i s = .next t ∧ t.trace = s.trace ++ evs ∧
      (∀ r v, shadowOf (if beginsWithInit i then s.cfg.ctrlReset else s.shadow) r = some v →
        shadowOf t.shadow r = some (lastWritten r v evs)) ∧
      t.shadow.addr = (if beginsWithInit i then s.cfg.ctrlReset else s.shadow).addr

/-- R41: after INIT, READ or WRITE the shadows of CONFIG and CLKDIV are the defaults; DEVADDR is 0x28 with two-byte
addressing, after INIT or with length 0, and otherwise `0x28 | sel` of the last transaction's address; BYTECNT, DATAOUT
and STARTXFR are the last values the command wrote, or `CTRL_RESET`. RSTCTRL is as the pulse left it (R40). -/
def Obligations.DriverCommandsLeaveTheControllerConfigured : Prop :=
  ∀ (i : Instr) (s : State) (a n : Word) (ps : List Slice),
    (i = .init a n ∧ ps = []) ∨ (i = .read a n ∧ ps = slices 16 a n.toNat) ∨
      (i = .write a n ∧ ps = slices 8 a n.toNat) →
    Accepts i s →
    ∃ t evs, exec i s = .next t ∧ t.trace = s.trace ++ evs ∧ t.shadow.config = 0x000000FA#32 ∧
      t.shadow.clkdiv = BitVec.ofNat 32 s.cfg.clkdiv ∧
      t.shadow.devaddr =
        (if s.cfg.addrBytes = 2 then 0x28#32
         else match ps.getLast? with
           | none => 0x28#32
           | some p => BitVec.ofNat 32 (0x28 + p.addr.toNat / 256 % 8)) ∧
      t.shadow.bytecnt = lastWritten .bytecnt s.cfg.ctrlReset.bytecnt evs ∧
      t.shadow.dataout = lastWritten .dataout s.cfg.ctrlReset.dataout evs ∧
      t.shadow.startxfr = lastWritten .startxfr s.cfg.ctrlReset.startxfr evs ∧
      t.rstctrl = (s.env.answer s.cfg .rstctrl).1 &&& ~~~s.cfg.rstMask

/-- R221: the least total delay of each command. -/
def Obligations.LeastDelayOfEachCommand : Prop :=
  ∀ (i : Instr) (s : State), Accepts i s →
    ∃ t evs, exec i s = .next t ∧ t.trace = s.trace ++ evs ∧
      delayTotal evs =
        match i with
        | .init _ _ => 500
        | .read _ _ => 500
        | .write _ n => 500 + 5000 * n.toNat
        | .eewr _ n => 5000 * (n.toNat / 8 + n.toNat % 8)
        | .dump _ _ => 0
        | .busw _ _ => 0
        | .busr _ _ => 0
        | .eerd _ _ => 0
        | .eerd1 _ _ => 0

/-- READ, WRITE and INIT begin with BUS_INIT; no other command touches RSTCTRL, CONFIG or CLKDIV (R167, R203, R217).
-/
def Obligations.OnlyDriverCommandsInitialise : Prop :=
  ∀ (i : Instr) (s : State), Accepts i s →
    ∃ t evs, exec i s = .next t ∧ t.trace = s.trace ++ evs ∧
      (beginsWithInit i = true →
        ∃ rest, evs = initEvents s.cfg (s.env.answer s.cfg .rstctrl).1 ++ rest ∧
          ∀ e ∈ rest, e.isInitOnly = false) ∧
      (beginsWithInit i = false → ∀ e ∈ evs, e.isInitOnly = false)

/-- Timeouts are silent: if no STATUS sample of a command shows DATARDY, it completes all the same, reads no DATAIN
and leaves BUF (R112, R115, R181). -/
def Obligations.WithoutDataReadyBufIsStale : Prop :=
  ∀ (i : Instr) (s : State), Accepts i s →
    ∃ t evs, exec i s = .next t ∧ t.trace = s.trace ++ evs ∧
      ((∀ v, Event.read .status v ∈ evs → v.getLsbD 2 = false) → datainWords evs = [] ∧ t.buf = s.buf)

/-- The hazards SEQ's own order meets, over the whole TRACE of a command (`Phase.next` gives the one order): the reset
pulse, the settle delay and the defaults in a row (R210); BYTECNT, first byte, STARTXFR in a row (R205, R206); one byte
for each ready sample (R207); BYTECNT and DEVADDR only where no transaction runs, which is after BUSY was seen 0 or
after `BUSY_LOOP` samples of the completion poll (R208); the read directly after its dummy write (R211); the write-cycle
delay directly after each payload-carrying write of the MAPPER (R140, R209); the page select before each slice with
one-byte addressing (R143). -/
def Obligations.EveryCommandIsDisciplined : Prop :=
  ∀ (i : Instr) (s : State), Accepts i s →
    ∃ t evs, exec i s = .next t ∧ t.trace = s.trace ++ evs ∧ Disciplined s.cfg evs

/-- SEQ writes no other value to a register than those the register rules name: CONFIG, CLKDIV, DEVADDR, DATAOUT and
STARTXFR by R29 to R36, BYTECNT by R37, RSTCTRL the word read with the reset bit set or clear (R38); and it waits 500
or 5000 time-units only (R104). -/
def Obligations.EveryEventIsLegal : Prop :=
  ∀ (i : Instr) (s : State), Accepts i s →
    ∃ t evs, exec i s = .next t ∧ t.trace = s.trace ++ evs ∧ (∀ e ∈ evs, e.Legal s.cfg) ∧
      (∀ v, Event.write .bytecnt v ∈ evs → v.toNat ∈ byteCounts s.cfg i) ∧
      ∀ v, Event.write .rstctrl v ∈ evs →
        v = (s.env.answer s.cfg .rstctrl).1 ||| s.cfg.rstMask ∨
        v = (s.env.answer s.cfg .rstctrl).1 &&& ~~~s.cfg.rstMask

/-- R51, R52, R56: the nine controller registers at their offsets from `I2C_BASE`, RSTCTRL at `RSTCTRL_ADDR`; the ten
bus addresses are multiples of 4 and distinct. -/
def Obligations.BusAddressesAreAlignedAndDistinct : Prop :=
  ∀ c : Config, c.Valid →
    Reg.config.busAddr c = c.i2cBase + 0x00 ∧ Reg.clkdiv.busAddr c = c.i2cBase + 0x04 ∧
    Reg.devaddr.busAddr c = c.i2cBase + 0x08 ∧ Reg.addr.busAddr c = c.i2cBase + 0x0C ∧
    Reg.dataout.busAddr c = c.i2cBase + 0x10 ∧ Reg.datain.busAddr c = c.i2cBase + 0x14 ∧
    Reg.status.busAddr c = c.i2cBase + 0x18 ∧ Reg.startxfr.busAddr c = c.i2cBase + 0x1C ∧
    Reg.bytecnt.busAddr c = c.i2cBase + 0x20 ∧ Reg.rstctrl.busAddr c = c.rstctrlAddr ∧
    (∀ r : Reg, r.busAddr c % 4 = 0) ∧ ∀ r r' : Reg, r.busAddr c = r'.busAddr c → r = r'

/-- R8: no step changes the parameters, which stand in the state by the model's choice, log entry 1. -/
def Obligations.ParametersNeverChange : Prop :=
  ∀ s t : State, step s = .next t → t.cfg = s.cfg

/-- Only the stored bits of a logical address matter: two addresses that agree modulo 2048 (one-byte addressing) or
65536 (two-byte addressing) give the same TRACE, BUF, shadows and ENV (R62, R63). -/
def Obligations.AddressesWrapSilently : Prop :=
  ∀ (i : Instr) (s : State) (a : Word), Accepts i s →
    a.toNat % (if s.cfg.addrBytes = 1 then 2048 else 65536) =
      i.address.toNat % (if s.cfg.addrBytes = 1 then 2048 else 65536) →
    ∃ t u, exec i s = .next t ∧ exec (withAddress a i) s = .next u ∧ SameButWork t u

/-- R20, R22: no command reads a working register an earlier command wrote. -/
def Obligations.WorkingRegistersCarryNothing : Prop :=
  ∀ (i : Instr) (s : State) (w : Work), Accepts i s →
    ∃ t u, exec i s = .next t ∧ exec i (s.withWork w) = .next u ∧ SameButWork t u

/-- R12, R183: no rule reads the TRACE or the ghost record of timeouts. -/
def Obligations.TraceAndGhostsAreNeverRead : Prop :=
  ∀ (i : Instr) (s : State) (es : List Event) (g : List Timeout), Accepts i s →
    ∃ t u evs ts, exec i s = .next t ∧ exec i ((s.withTrace es).withTimeouts g) = .next u ∧ SameButGhosts t u ∧
      t.trace = s.trace ++ evs ∧ u.trace = es ++ evs ∧ t.timeouts = s.timeouts ++ ts ∧ u.timeouts = g ++ ts

/-! ### Reset, micro-steps, the invariant -/

/-- R40, R200: after power-on SEQ is `IDLE`, `upc` holds no value, the shadows are `CTRL_RESET`, and nothing happens
until HOST issues a command. The parameters and `CTRL_RESET` of `State.reset` are the model's choice, log entry 4. -/
def Obligations.PowerOnSeqIsIdle : Prop :=
  State.reset.run = .idle ∧ State.reset.upc = none ∧ State.reset.shadow = State.reset.cfg.ctrlReset ∧
    State.reset.trace = [] ∧ step State.reset = .next State.reset

/-- R24: the procedure stack is at most three deep, and never empty while BUSY. -/
def Obligations.ProcedureStackIsAtMostThreeDeep : Prop :=
  ∀ u : Upc, 1 ≤ u.stack.length ∧ u.stack.length ≤ 3

/-- R25, R117: a micro-step emits exactly one event, the one its label names. -/
def Obligations.MicroStepEmitsTheEventOfItsLabel : Prop :=
  ∀ (s : State) (u : Upc) (last : Option Upc), s.cfg.Valid → s.run = .busy u last →
    ∃ t e, step s = .next t ∧ t.trace = s.trace ++ [e] ∧ u.label.Emits e

/-- The big-step meaning of a command is the run of its micro-steps: from acceptance, SEQ is BUSY for some number of
steps and then stands in exactly the state `exec` answers (R24, R25, R71, R116). That `step` runs a presented command
whole is the model's choice, log entry 6. -/
def Obligations.CommandsAreRunsOfMicroSteps : Prop :=
  ∀ (i : Instr) (s t : State), exec i s = .next t →
    ∃ k, Sys2Proof.core.run k (accept i s) = .next t ∧
      ∀ j, j < k → ∃ m u last, Sys2Proof.core.run j (accept i s) = .next m ∧ m.run = .busy u last

/-- The invariant holds at power-on. Its clause that `PAGE` is even holds there by the model's choice of 0 for the
working registers, log entry 5: R40 and R200 leave them unspecified. -/
def Obligations.InvariantHoldsAtReset : Prop := State.reset.Inv

/-- Every step keeps the invariant: BUF canonical and inside `BUF_SIZE`, every shadow `CTRL_RESET` or a value SEQ may
write, BYTECNT's at most `BUF_SIZE + ADDR_BYTES - 1`, ADDR never written, `PAGE` even, ENV_IDEAL inside its array (R28
to R37, R68, R131). Inside a command the updates still to come lead to the statement `upc` names (R25), and with them
made every loop register is in its range, so that no BUF access is out of range. Where those updates wait is the
model's own field `last`, log entry 8. -/
def Obligations.StepKeepsTheInvariant : Prop :=
  ∀ s t : State, s.Inv → step s = .next t → t.Inv

/-! ### The reference environment ENV_IDEAL -/

/-- R144: under ENV_IDEAL no poll times out, and the MAPPER's commands emit the counted events. -/
def Obligations.IdealEnvEventCounts : Prop :=
  ∀ (i : Instr) (s : State) (e : Ideal) (a n : Word), s.env = .ideal e → e.mode = .idle → Accepts i s →
    ∃ t evs, exec i s = .next t ∧ t.trace = s.trace ++ evs ∧
      (i = .eerd a n → t.timeouts = s.timeouts ∧
        evs.length =
          if s.cfg.addrBytes = 1 then 40 * (n.toNat / 16) + 10 * (n.toNat % 16)
          else 41 * (n.toNat / 16) + 11 * (n.toNat % 16)) ∧
      (i = .eerd1 a n → t.timeouts = s.timeouts ∧
        evs.length = if s.cfg.addrBytes = 1 then 10 * n.toNat else 11 * n.toNat) ∧
      (i = .eewr a n → t.timeouts = s.timeouts ∧
        evs.length =
          if s.cfg.addrBytes = 1 then 22 * (n.toNat / 8) + 8 * (n.toNat % 8)
          else 23 * (n.toNat / 8) + 9 * (n.toNat % 8))

/-- Under ENV_IDEAL EERD and EERD1 both put the cells from `address` on into BUF, modulo `SIZE` (R66, R138). A cell never
written holds a free value, log entry 13. -/
def Obligations.IdealEnvReadsTheCells : Prop :=
  ∀ (i : Instr) (s : State) (e : Ideal) (a n : Word), i = .eerd a n ∨ i = .eerd1 a n → s.env = .ideal e →
    e.mode = .idle → Accepts i s →
    ∃ t, exec i s = .next t ∧
      ∀ k, k < n.toNat →
        t.bufByte k =
          (Memory.read e.mem ((a.toNat + k) % s.cfg.eepromSize)).getD
            (Config.eepromFree ((a.toNat + k) % s.cfg.eepromSize))

/-- R67, R146: under ENV_IDEAL EEWR followed by EERD over the same range returns the written bytes, whatever HOST puts
in BUF between the two. -/
def Obligations.IdealEnvRoundTrip : Prop :=
  ∀ (s : State) (e : Ideal) (a n : Word) (other : Memory), s.env = .ideal e → e.mode = .idle →
    Accepts (.eewr a n) s → n.toNat ≤ s.cfg.eepromSize →
    ∃ t u, exec (.eewr a n) s = .next t ∧ exec (.eerd a n) (t.withBuf other) = .next u ∧
      ∀ k, k < n.toNat → u.bufByte k = s.bufByte k

/-! ### The divider, and the updates between two events -/

/-- R7, R220: `CLKDIV` is 375 on the production board and `CLKDIV_SIM` on the simulation board; a byte poll takes at
most `CLKDIV * 25` samples and a completion poll `CLKDIV * 30`, which is 9375 and 11250 on the production board. -/
def Obligations.DividerAndPollBudgetsFollowTheBoard : Prop :=
  ∀ c : Config,
    (c.board = .prod → c.clkdiv = 375 ∧ c.maxBusyLoop = 9375 ∧ c.busyLoop = 11250) ∧
    (c.board = .sim → c.clkdiv = c.clkdivSim ∧ c.maxBusyLoop = c.clkdivSim * 25 ∧ c.busyLoop = c.clkdivSim * 30)

/-- R25: a step makes the updates still to come, then its event, which itself writes no register but `V`, no BUF byte
and no ghost. Where the command goes on, the updates after the event wait for the step of the next one; where it ends
they belong to this step. `pending` walks from `last`, the model's own field, log entry 8. -/
def Obligations.UpdatesBelongToTheStepOfTheLaterEvent : Prop :=
  ∀ (s : State) (u : Upc) (last : Option Upc), s.cfg.Valid → s.run = .busy u last →
    ∃ t m e, step s = .next t ∧ u.label.Emits e ∧
      m =
        { (pending last s).2 with
          work := { (pending last s).2.work with v := m.work.v }
          shadow := m.shadow
          rstctrl := m.rstctrl
          env := m.env
          trace := s.trace ++ [e] } ∧
      (∀ v, (pending (some u) m).1 = some v → t = m.withRun (.busy v (some u))) ∧
      ((pending (some u) m).1 = none → t = (pending (some u) m).2.withRun .idle)

/-- R25, R111: the DATAIN read of a position (label R4) leaves BUF, `I` and `J`; the byte goes into `BUF[BO + I]`, and to
no other place, at the step of the STATUS sample that follows. -/
def Obligations.DatainByteIsStoredByTheNextStep : Prop :=
  ∀ (s : State) (c : BusrCaller) (v : Word), s.cfg.Valid →
    s.run = .busy (.busr c .r4) (some (.busr c .r3)) → s.work.v.getLsbD 2 = true →
    v = (s.env.answer s.cfg .datain).1 →
    ∃ t r w, step s = .next t ∧
      t =
        { s with
          work := { s.work with v := v }
          run := r
          env := (s.env.answer s.cfg .datain).2
          trace := s.trace ++ [.read .datain v] } ∧
      step t = .next w ∧ w.bufByte (s.work.bo + s.work.i).toNat = v.lowByte ∧
      ∀ k, k ≠ (s.work.bo + s.work.i).toNat → w.bufByte k = s.bufByte k
end

