-- ==== Sys2Proof/Laws/State.lean ====
section
/-! SUPPORT. One lemma per field per update of State, so that no proof unfolds a record update. -/

namespace Sys2Proof.Machine

namespace State

variable (s : State)

@[simp] theorem withWork_cfg (w : Work) : (s.withWork w).cfg = s.cfg := (rfl)
@[simp] theorem withWork_work (w : Work) : (s.withWork w).work = w := (rfl)
@[simp] theorem withWork_run (w : Work) : (s.withWork w).run = s.run := (rfl)
@[simp] theorem withWork_buf (w : Work) : (s.withWork w).buf = s.buf := (rfl)
@[simp] theorem withWork_shadow (w : Work) : (s.withWork w).shadow = s.shadow := (rfl)
@[simp] theorem withWork_rstctrl (w : Work) : (s.withWork w).rstctrl = s.rstctrl := (rfl)
@[simp] theorem withWork_env (w : Work) : (s.withWork w).env = s.env := (rfl)
@[simp] theorem withWork_host (w : Work) : (s.withWork w).host = s.host := (rfl)
@[simp] theorem withWork_trace (w : Work) : (s.withWork w).trace = s.trace := (rfl)
@[simp] theorem withWork_timeouts (w : Work) : (s.withWork w).timeouts = s.timeouts := (rfl)

@[simp] theorem withRun_cfg (r : Run) : (s.withRun r).cfg = s.cfg := (rfl)
@[simp] theorem withRun_work (r : Run) : (s.withRun r).work = s.work := (rfl)
@[simp] theorem withRun_run (r : Run) : (s.withRun r).run = r := (rfl)
@[simp] theorem withRun_buf (r : Run) : (s.withRun r).buf = s.buf := (rfl)
@[simp] theorem withRun_shadow (r : Run) : (s.withRun r).shadow = s.shadow := (rfl)
@[simp] theorem withRun_rstctrl (r : Run) : (s.withRun r).rstctrl = s.rstctrl := (rfl)
@[simp] theorem withRun_env (r : Run) : (s.withRun r).env = s.env := (rfl)
@[simp] theorem withRun_host (r : Run) : (s.withRun r).host = s.host := (rfl)
@[simp] theorem withRun_trace (r : Run) : (s.withRun r).trace = s.trace := (rfl)
@[simp] theorem withRun_timeouts (r : Run) : (s.withRun r).timeouts = s.timeouts := (rfl)

@[simp] theorem withBuf_cfg (m : Memory) : (s.withBuf m).cfg = s.cfg := (rfl)
@[simp] theorem withBuf_work (m : Memory) : (s.withBuf m).work = s.work := (rfl)
@[simp] theorem withBuf_run (m : Memory) : (s.withBuf m).run = s.run := (rfl)
@[simp] theorem withBuf_buf (m : Memory) : (s.withBuf m).buf = m := (rfl)
@[simp] theorem withBuf_shadow (m : Memory) : (s.withBuf m).shadow = s.shadow := (rfl)
@[simp] theorem withBuf_rstctrl (m : Memory) : (s.withBuf m).rstctrl = s.rstctrl := (rfl)
@[simp] theorem withBuf_env (m : Memory) : (s.withBuf m).env = s.env := (rfl)
@[simp] theorem withBuf_host (m : Memory) : (s.withBuf m).host = s.host := (rfl)
@[simp] theorem withBuf_trace (m : Memory) : (s.withBuf m).trace = s.trace := (rfl)
@[simp] theorem withBuf_timeouts (m : Memory) : (s.withBuf m).timeouts = s.timeouts := (rfl)

@[simp] theorem withShadow_cfg (c : CtrlRegs) : (s.withShadow c).cfg = s.cfg := (rfl)
@[simp] theorem withShadow_work (c : CtrlRegs) : (s.withShadow c).work = s.work := (rfl)
@[simp] theorem withShadow_run (c : CtrlRegs) : (s.withShadow c).run = s.run := (rfl)
@[simp] theorem withShadow_buf (c : CtrlRegs) : (s.withShadow c).buf = s.buf := (rfl)
@[simp] theorem withShadow_shadow (c : CtrlRegs) : (s.withShadow c).shadow = c := (rfl)
@[simp] theorem withShadow_rstctrl (c : CtrlRegs) : (s.withShadow c).rstctrl = s.rstctrl := (rfl)
@[simp] theorem withShadow_env (c : CtrlRegs) : (s.withShadow c).env = s.env := (rfl)
@[simp] theorem withShadow_host (c : CtrlRegs) : (s.withShadow c).host = s.host := (rfl)
@[simp] theorem withShadow_trace (c : CtrlRegs) : (s.withShadow c).trace = s.trace := (rfl)
@[simp] theorem withShadow_timeouts (c : CtrlRegs) : (s.withShadow c).timeouts = s.timeouts := (rfl)

@[simp] theorem withRstctrl_cfg (v : Word) : (s.withRstctrl v).cfg = s.cfg := (rfl)
@[simp] theorem withRstctrl_work (v : Word) : (s.withRstctrl v).work = s.work := (rfl)
@[simp] theorem withRstctrl_run (v : Word) : (s.withRstctrl v).run = s.run := (rfl)
@[simp] theorem withRstctrl_buf (v : Word) : (s.withRstctrl v).buf = s.buf := (rfl)
@[simp] theorem withRstctrl_shadow (v : Word) : (s.withRstctrl v).shadow = s.shadow := (rfl)
@[simp] theorem withRstctrl_rstctrl (v : Word) : (s.withRstctrl v).rstctrl = v := (rfl)
@[simp] theorem withRstctrl_env (v : Word) : (s.withRstctrl v).env = s.env := (rfl)
@[simp] theorem withRstctrl_host (v : Word) : (s.withRstctrl v).host = s.host := (rfl)
@[simp] theorem withRstctrl_trace (v : Word) : (s.withRstctrl v).trace = s.trace := (rfl)
@[simp] theorem withRstctrl_timeouts (v : Word) : (s.withRstctrl v).timeouts = s.timeouts := (rfl)

@[simp] theorem withEnv_cfg (e : Env) : (s.withEnv e).cfg = s.cfg := (rfl)
@[simp] theorem withEnv_work (e : Env) : (s.withEnv e).work = s.work := (rfl)
@[simp] theorem withEnv_run (e : Env) : (s.withEnv e).run = s.run := (rfl)
@[simp] theorem withEnv_buf (e : Env) : (s.withEnv e).buf = s.buf := (rfl)
@[simp] theorem withEnv_shadow (e : Env) : (s.withEnv e).shadow = s.shadow := (rfl)
@[simp] theorem withEnv_rstctrl (e : Env) : (s.withEnv e).rstctrl = s.rstctrl := (rfl)
@[simp] theorem withEnv_env (e : Env) : (s.withEnv e).env = e := (rfl)
@[simp] theorem withEnv_host (e : Env) : (s.withEnv e).host = s.host := (rfl)
@[simp] theorem withEnv_trace (e : Env) : (s.withEnv e).trace = s.trace := (rfl)
@[simp] theorem withEnv_timeouts (e : Env) : (s.withEnv e).timeouts = s.timeouts := (rfl)

@[simp] theorem withHost_cfg (h : List HostMove) : (s.withHost h).cfg = s.cfg := (rfl)
@[simp] theorem withHost_work (h : List HostMove) : (s.withHost h).work = s.work := (rfl)
@[simp] theorem withHost_run (h : List HostMove) : (s.withHost h).run = s.run := (rfl)
@[simp] theorem withHost_buf (h : List HostMove) : (s.withHost h).buf = s.buf := (rfl)
@[simp] theorem withHost_shadow (h : List HostMove) : (s.withHost h).shadow = s.shadow := (rfl)
@[simp] theorem withHost_rstctrl (h : List HostMove) : (s.withHost h).rstctrl = s.rstctrl := (rfl)
@[simp] theorem withHost_env (h : List HostMove) : (s.withHost h).env = s.env := (rfl)
@[simp] theorem withHost_host (h : List HostMove) : (s.withHost h).host = h := (rfl)
@[simp] theorem withHost_trace (h : List HostMove) : (s.withHost h).trace = s.trace := (rfl)
@[simp] theorem withHost_timeouts (h : List HostMove) : (s.withHost h).timeouts = s.timeouts := (rfl)

@[simp] theorem withTrace_cfg (t : List Event) : (s.withTrace t).cfg = s.cfg := (rfl)
@[simp] theorem withTrace_work (t : List Event) : (s.withTrace t).work = s.work := (rfl)
@[simp] theorem withTrace_run (t : List Event) : (s.withTrace t).run = s.run := (rfl)
@[simp] theorem withTrace_buf (t : List Event) : (s.withTrace t).buf = s.buf := (rfl)
@[simp] theorem withTrace_shadow (t : List Event) : (s.withTrace t).shadow = s.shadow := (rfl)
@[simp] theorem withTrace_rstctrl (t : List Event) : (s.withTrace t).rstctrl = s.rstctrl := (rfl)
@[simp] theorem withTrace_env (t : List Event) : (s.withTrace t).env = s.env := (rfl)
@[simp] theorem withTrace_host (t : List Event) : (s.withTrace t).host = s.host := (rfl)
@[simp] theorem withTrace_trace (t : List Event) : (s.withTrace t).trace = t := (rfl)
@[simp] theorem withTrace_timeouts (t : List Event) : (s.withTrace t).timeouts = s.timeouts := (rfl)

@[simp] theorem withTimeouts_cfg (t : List Timeout) : (s.withTimeouts t).cfg = s.cfg := (rfl)
@[simp] theorem withTimeouts_work (t : List Timeout) : (s.withTimeouts t).work = s.work := (rfl)
@[simp] theorem withTimeouts_run (t : List Timeout) : (s.withTimeouts t).run = s.run := (rfl)
@[simp] theorem withTimeouts_buf (t : List Timeout) : (s.withTimeouts t).buf = s.buf := (rfl)
@[simp] theorem withTimeouts_shadow (t : List Timeout) : (s.withTimeouts t).shadow = s.shadow := (rfl)
@[simp] theorem withTimeouts_rstctrl (t : List Timeout) : (s.withTimeouts t).rstctrl = s.rstctrl := (rfl)
@[simp] theorem withTimeouts_env (t : List Timeout) : (s.withTimeouts t).env = s.env := (rfl)
@[simp] theorem withTimeouts_host (t : List Timeout) : (s.withTimeouts t).host = s.host := (rfl)
@[simp] theorem withTimeouts_trace (t : List Timeout) : (s.withTimeouts t).trace = s.trace := (rfl)
@[simp] theorem withTimeouts_timeouts (t : List Timeout) : (s.withTimeouts t).timeouts = t := (rfl)

end State

end Sys2Proof.Machine
end

