-- ==== Sys2Proof/Laws/Ops.lean ====
section
/-! SUPPORT. What each primitive of the register bus, BUF, the TRACE and the working registers does to each field. -/

namespace Sys2Proof.Machine

variable (s : State)

@[simp] theorem setI_cfg (v : Word) : (s.setI v).cfg = s.cfg := (rfl)
@[simp] theorem setI_work (v : Word) : (s.setI v).work = { s.work with i := v } := (rfl)
@[simp] theorem setI_run (v : Word) : (s.setI v).run = s.run := (rfl)
@[simp] theorem setI_buf (v : Word) : (s.setI v).buf = s.buf := (rfl)
@[simp] theorem setI_shadow (v : Word) : (s.setI v).shadow = s.shadow := (rfl)
@[simp] theorem setI_rstctrl (v : Word) : (s.setI v).rstctrl = s.rstctrl := (rfl)
@[simp] theorem setI_env (v : Word) : (s.setI v).env = s.env := (rfl)
@[simp] theorem setI_host (v : Word) : (s.setI v).host = s.host := (rfl)
@[simp] theorem setI_trace (v : Word) : (s.setI v).trace = s.trace := (rfl)
@[simp] theorem setI_timeouts (v : Word) : (s.setI v).timeouts = s.timeouts := (rfl)

@[simp] theorem setJ_cfg (v : Word) : (s.setJ v).cfg = s.cfg := (rfl)
@[simp] theorem setJ_work (v : Word) : (s.setJ v).work = { s.work with j := v } := (rfl)
@[simp] theorem setJ_run (v : Word) : (s.setJ v).run = s.run := (rfl)
@[simp] theorem setJ_buf (v : Word) : (s.setJ v).buf = s.buf := (rfl)
@[simp] theorem setJ_shadow (v : Word) : (s.setJ v).shadow = s.shadow := (rfl)
@[simp] theorem setJ_rstctrl (v : Word) : (s.setJ v).rstctrl = s.rstctrl := (rfl)
@[simp] theorem setJ_env (v : Word) : (s.setJ v).env = s.env := (rfl)
@[simp] theorem setJ_host (v : Word) : (s.setJ v).host = s.host := (rfl)
@[simp] theorem setJ_trace (v : Word) : (s.setJ v).trace = s.trace := (rfl)
@[simp] theorem setJ_timeouts (v : Word) : (s.setJ v).timeouts = s.timeouts := (rfl)

@[simp] theorem setV_cfg (v : Word) : (s.setV v).cfg = s.cfg := (rfl)
@[simp] theorem setV_work (v : Word) : (s.setV v).work = { s.work with v := v } := (rfl)
@[simp] theorem setV_run (v : Word) : (s.setV v).run = s.run := (rfl)
@[simp] theorem setV_buf (v : Word) : (s.setV v).buf = s.buf := (rfl)
@[simp] theorem setV_shadow (v : Word) : (s.setV v).shadow = s.shadow := (rfl)
@[simp] theorem setV_rstctrl (v : Word) : (s.setV v).rstctrl = s.rstctrl := (rfl)
@[simp] theorem setV_env (v : Word) : (s.setV v).env = s.env := (rfl)
@[simp] theorem setV_host (v : Word) : (s.setV v).host = s.host := (rfl)
@[simp] theorem setV_trace (v : Word) : (s.setV v).trace = s.trace := (rfl)
@[simp] theorem setV_timeouts (v : Word) : (s.setV v).timeouts = s.timeouts := (rfl)

@[simp] theorem setB_cfg (v : Word) : (s.setB v).cfg = s.cfg := (rfl)
@[simp] theorem setB_work (v : Word) : (s.setB v).work = { s.work with b := v } := (rfl)
@[simp] theorem setB_run (v : Word) : (s.setB v).run = s.run := (rfl)
@[simp] theorem setB_buf (v : Word) : (s.setB v).buf = s.buf := (rfl)
@[simp] theorem setB_shadow (v : Word) : (s.setB v).shadow = s.shadow := (rfl)
@[simp] theorem setB_rstctrl (v : Word) : (s.setB v).rstctrl = s.rstctrl := (rfl)
@[simp] theorem setB_env (v : Word) : (s.setB v).env = s.env := (rfl)
@[simp] theorem setB_host (v : Word) : (s.setB v).host = s.host := (rfl)
@[simp] theorem setB_trace (v : Word) : (s.setB v).trace = s.trace := (rfl)
@[simp] theorem setB_timeouts (v : Word) : (s.setB v).timeouts = s.timeouts := (rfl)

@[simp] theorem setK_cfg (v : Word) : (s.setK v).cfg = s.cfg := (rfl)
@[simp] theorem setK_work (v : Word) : (s.setK v).work = { s.work with k := v } := (rfl)
@[simp] theorem setK_run (v : Word) : (s.setK v).run = s.run := (rfl)
@[simp] theorem setK_buf (v : Word) : (s.setK v).buf = s.buf := (rfl)
@[simp] theorem setK_shadow (v : Word) : (s.setK v).shadow = s.shadow := (rfl)
@[simp] theorem setK_rstctrl (v : Word) : (s.setK v).rstctrl = s.rstctrl := (rfl)
@[simp] theorem setK_env (v : Word) : (s.setK v).env = s.env := (rfl)
@[simp] theorem setK_host (v : Word) : (s.setK v).host = s.host := (rfl)
@[simp] theorem setK_trace (v : Word) : (s.setK v).trace = s.trace := (rfl)
@[simp] theorem setK_timeouts (v : Word) : (s.setK v).timeouts = s.timeouts := (rfl)

@[simp] theorem setPage_cfg (p : BitVec 4) : (s.setPage p).cfg = s.cfg := (rfl)
@[simp] theorem setPage_work (p : BitVec 4) : (s.setPage p).work = { s.work with page := p } := (rfl)
@[simp] theorem setPage_run (p : BitVec 4) : (s.setPage p).run = s.run := (rfl)
@[simp] theorem setPage_buf (p : BitVec 4) : (s.setPage p).buf = s.buf := (rfl)
@[simp] theorem setPage_shadow (p : BitVec 4) : (s.setPage p).shadow = s.shadow := (rfl)
@[simp] theorem setPage_rstctrl (p : BitVec 4) : (s.setPage p).rstctrl = s.rstctrl := (rfl)
@[simp] theorem setPage_env (p : BitVec 4) : (s.setPage p).env = s.env := (rfl)
@[simp] theorem setPage_host (p : BitVec 4) : (s.setPage p).host = s.host := (rfl)
@[simp] theorem setPage_trace (p : BitVec 4) : (s.setPage p).trace = s.trace := (rfl)
@[simp] theorem setPage_timeouts (p : BitVec 4) : (s.setPage p).timeouts = s.timeouts := (rfl)

@[simp] theorem setBlocks_cfg (n r : Word) : (s.setBlocks n r).cfg = s.cfg := (rfl)
@[simp] theorem setBlocks_work (n r : Word) : (s.setBlocks n r).work = { s.work with nblk := n, rem := r } := (rfl)
@[simp] theorem setBlocks_run (n r : Word) : (s.setBlocks n r).run = s.run := (rfl)
@[simp] theorem setBlocks_buf (n r : Word) : (s.setBlocks n r).buf = s.buf := (rfl)
@[simp] theorem setBlocks_shadow (n r : Word) : (s.setBlocks n r).shadow = s.shadow := (rfl)
@[simp] theorem setBlocks_rstctrl (n r : Word) : (s.setBlocks n r).rstctrl = s.rstctrl := (rfl)
@[simp] theorem setBlocks_env (n r : Word) : (s.setBlocks n r).env = s.env := (rfl)
@[simp] theorem setBlocks_host (n r : Word) : (s.setBlocks n r).host = s.host := (rfl)
@[simp] theorem setBlocks_trace (n r : Word) : (s.setBlocks n r).trace = s.trace := (rfl)
@[simp] theorem setBlocks_timeouts (n r : Word) : (s.setBlocks n r).timeouts = s.timeouts := (rfl)

@[simp] theorem setSlice_cfg (a bo : Word) : (s.setSlice a bo).cfg = s.cfg := (rfl)
@[simp] theorem setSlice_work (a bo : Word) : (s.setSlice a bo).work = { s.work with a := a, bo := bo } := (rfl)
@[simp] theorem setSlice_run (a bo : Word) : (s.setSlice a bo).run = s.run := (rfl)
@[simp] theorem setSlice_buf (a bo : Word) : (s.setSlice a bo).buf = s.buf := (rfl)
@[simp] theorem setSlice_shadow (a bo : Word) : (s.setSlice a bo).shadow = s.shadow := (rfl)
@[simp] theorem setSlice_rstctrl (a bo : Word) : (s.setSlice a bo).rstctrl = s.rstctrl := (rfl)
@[simp] theorem setSlice_env (a bo : Word) : (s.setSlice a bo).env = s.env := (rfl)
@[simp] theorem setSlice_host (a bo : Word) : (s.setSlice a bo).host = s.host := (rfl)
@[simp] theorem setSlice_trace (a bo : Word) : (s.setSlice a bo).trace = s.trace := (rfl)
@[simp] theorem setSlice_timeouts (a bo : Word) : (s.setSlice a bo).timeouts = s.timeouts := (rfl)

@[simp] theorem setBusw_cfg (ta bo tn : Word) : (s.setBusw ta bo tn).cfg = s.cfg := (rfl)
@[simp] theorem setBusw_work (ta bo tn : Word) : (s.setBusw ta bo tn).work = { s.work with ta := ta, bo := bo, tn := tn, tot := tn + s.cfg.addrWord } := (rfl)
@[simp] theorem setBusw_run (ta bo tn : Word) : (s.setBusw ta bo tn).run = s.run := (rfl)
@[simp] theorem setBusw_buf (ta bo tn : Word) : (s.setBusw ta bo tn).buf = s.buf := (rfl)
@[simp] theorem setBusw_shadow (ta bo tn : Word) : (s.setBusw ta bo tn).shadow = s.shadow := (rfl)
@[simp] theorem setBusw_rstctrl (ta bo tn : Word) : (s.setBusw ta bo tn).rstctrl = s.rstctrl := (rfl)
@[simp] theorem setBusw_env (ta bo tn : Word) : (s.setBusw ta bo tn).env = s.env := (rfl)
@[simp] theorem setBusw_host (ta bo tn : Word) : (s.setBusw ta bo tn).host = s.host := (rfl)
@[simp] theorem setBusw_trace (ta bo tn : Word) : (s.setBusw ta bo tn).trace = s.trace := (rfl)
@[simp] theorem setBusw_timeouts (ta bo tn : Word) : (s.setBusw ta bo tn).timeouts = s.timeouts := (rfl)

@[simp] theorem setBusr_cfg (bo tn : Word) : (s.setBusr bo tn).cfg = s.cfg := (rfl)
@[simp] theorem setBusr_work (bo tn : Word) : (s.setBusr bo tn).work = { s.work with bo := bo, tn := tn } := (rfl)
@[simp] theorem setBusr_run (bo tn : Word) : (s.setBusr bo tn).run = s.run := (rfl)
@[simp] theorem setBusr_buf (bo tn : Word) : (s.setBusr bo tn).buf = s.buf := (rfl)
@[simp] theorem setBusr_shadow (bo tn : Word) : (s.setBusr bo tn).shadow = s.shadow := (rfl)
@[simp] theorem setBusr_rstctrl (bo tn : Word) : (s.setBusr bo tn).rstctrl = s.rstctrl := (rfl)
@[simp] theorem setBusr_env (bo tn : Word) : (s.setBusr bo tn).env = s.env := (rfl)
@[simp] theorem setBusr_host (bo tn : Word) : (s.setBusr bo tn).host = s.host := (rfl)
@[simp] theorem setBusr_trace (bo tn : Word) : (s.setBusr bo tn).trace = s.trace := (rfl)
@[simp] theorem setBusr_timeouts (bo tn : Word) : (s.setBusr bo tn).timeouts = s.timeouts := (rfl)

@[simp] theorem emit_cfg (e : Event) : (s.emit e).cfg = s.cfg := (rfl)
@[simp] theorem emit_work (e : Event) : (s.emit e).work = s.work := (rfl)
@[simp] theorem emit_run (e : Event) : (s.emit e).run = s.run := (rfl)
@[simp] theorem emit_buf (e : Event) : (s.emit e).buf = s.buf := (rfl)
@[simp] theorem emit_shadow (e : Event) : (s.emit e).shadow = s.shadow := (rfl)
@[simp] theorem emit_rstctrl (e : Event) : (s.emit e).rstctrl = s.rstctrl := (rfl)
@[simp] theorem emit_env (e : Event) : (s.emit e).env = s.env := (rfl)
@[simp] theorem emit_host (e : Event) : (s.emit e).host = s.host := (rfl)
@[simp] theorem emit_trace (e : Event) : (s.emit e).trace = s.trace ++ [e] := (rfl)
@[simp] theorem emit_timeouts (e : Event) : (s.emit e).timeouts = s.timeouts := (rfl)

@[simp] theorem noteTimeout_cfg (t : Timeout) : (s.noteTimeout t).cfg = s.cfg := (rfl)
@[simp] theorem noteTimeout_work (t : Timeout) : (s.noteTimeout t).work = s.work := (rfl)
@[simp] theorem noteTimeout_run (t : Timeout) : (s.noteTimeout t).run = s.run := (rfl)
@[simp] theorem noteTimeout_buf (t : Timeout) : (s.noteTimeout t).buf = s.buf := (rfl)
@[simp] theorem noteTimeout_shadow (t : Timeout) : (s.noteTimeout t).shadow = s.shadow := (rfl)
@[simp] theorem noteTimeout_rstctrl (t : Timeout) : (s.noteTimeout t).rstctrl = s.rstctrl := (rfl)
@[simp] theorem noteTimeout_env (t : Timeout) : (s.noteTimeout t).env = s.env := (rfl)
@[simp] theorem noteTimeout_host (t : Timeout) : (s.noteTimeout t).host = s.host := (rfl)
@[simp] theorem noteTimeout_trace (t : Timeout) : (s.noteTimeout t).trace = s.trace := (rfl)
@[simp] theorem noteTimeout_timeouts (t : Timeout) : (s.noteTimeout t).timeouts = s.timeouts ++ [t] := (rfl)

@[simp] theorem bufStore_cfg (i : Nat) (b : Byte) : (s.bufStore i b).cfg = s.cfg := (rfl)
@[simp] theorem bufStore_work (i : Nat) (b : Byte) : (s.bufStore i b).work = s.work := (rfl)
@[simp] theorem bufStore_run (i : Nat) (b : Byte) : (s.bufStore i b).run = s.run := (rfl)
@[simp] theorem bufStore_buf (i : Nat) (b : Byte) : (s.bufStore i b).buf = Memory.write s.buf i b := (rfl)
@[simp] theorem bufStore_shadow (i : Nat) (b : Byte) : (s.bufStore i b).shadow = s.shadow := (rfl)
@[simp] theorem bufStore_rstctrl (i : Nat) (b : Byte) : (s.bufStore i b).rstctrl = s.rstctrl := (rfl)
@[simp] theorem bufStore_env (i : Nat) (b : Byte) : (s.bufStore i b).env = s.env := (rfl)
@[simp] theorem bufStore_host (i : Nat) (b : Byte) : (s.bufStore i b).host = s.host := (rfl)
@[simp] theorem bufStore_trace (i : Nat) (b : Byte) : (s.bufStore i b).trace = s.trace := (rfl)
@[simp] theorem bufStore_timeouts (i : Nat) (b : Byte) : (s.bufStore i b).timeouts = s.timeouts := (rfl)

@[simp] theorem busRead_cfg (r : InReg) : (busRead r s).cfg = s.cfg := (rfl)
@[simp] theorem busRead_work (r : InReg) : (busRead r s).work = { s.work with v := (s.env.answer s.cfg r).1 } := (rfl)
@[simp] theorem busRead_run (r : InReg) : (busRead r s).run = s.run := (rfl)
@[simp] theorem busRead_buf (r : InReg) : (busRead r s).buf = s.buf := (rfl)
@[simp] theorem busRead_shadow (r : InReg) : (busRead r s).shadow = s.shadow := (rfl)
@[simp] theorem busRead_rstctrl (r : InReg) : (busRead r s).rstctrl = s.rstctrl := (rfl)
@[simp] theorem busRead_env (r : InReg) : (busRead r s).env = (s.env.answer s.cfg r).2 := (rfl)
@[simp] theorem busRead_host (r : InReg) : (busRead r s).host = s.host := (rfl)
@[simp] theorem busRead_trace (r : InReg) : (busRead r s).trace = s.trace ++ [.read r (s.env.answer s.cfg r).1] := (rfl)
@[simp] theorem busRead_timeouts (r : InReg) : (busRead r s).timeouts = s.timeouts := (rfl)

@[simp] theorem busWrite_cfg (r : OutReg) (v : Word) : (busWrite r v s).cfg = s.cfg := (rfl)
@[simp] theorem busWrite_work (r : OutReg) (v : Word) : (busWrite r v s).work = s.work := (rfl)
@[simp] theorem busWrite_run (r : OutReg) (v : Word) : (busWrite r v s).run = s.run := (rfl)
@[simp] theorem busWrite_buf (r : OutReg) (v : Word) : (busWrite r v s).buf = s.buf := (rfl)
@[simp] theorem busWrite_shadow (r : OutReg) (v : Word) : (busWrite r v s).shadow = setShadow r v s.shadow := (rfl)
@[simp] theorem busWrite_rstctrl (r : OutReg) (v : Word) : (busWrite r v s).rstctrl = if r = .rstctrl then v else s.rstctrl := (rfl)
@[simp] theorem busWrite_env (r : OutReg) (v : Word) : (busWrite r v s).env = s.env.observe s.cfg r v := (rfl)
@[simp] theorem busWrite_host (r : OutReg) (v : Word) : (busWrite r v s).host = s.host := (rfl)
@[simp] theorem busWrite_trace (r : OutReg) (v : Word) : (busWrite r v s).trace = s.trace ++ [.write r v] := (rfl)
@[simp] theorem busWrite_timeouts (r : OutReg) (v : Word) : (busWrite r v s).timeouts = s.timeouts := (rfl)

@[simp] theorem delay_cfg (n : Nat) : (delay n s).cfg = s.cfg := (rfl)
@[simp] theorem delay_work (n : Nat) : (delay n s).work = s.work := (rfl)
@[simp] theorem delay_run (n : Nat) : (delay n s).run = s.run := (rfl)
@[simp] theorem delay_buf (n : Nat) : (delay n s).buf = s.buf := (rfl)
@[simp] theorem delay_shadow (n : Nat) : (delay n s).shadow = s.shadow := (rfl)
@[simp] theorem delay_rstctrl (n : Nat) : (delay n s).rstctrl = s.rstctrl := (rfl)
@[simp] theorem delay_env (n : Nat) : (delay n s).env = s.env := (rfl)
@[simp] theorem delay_host (n : Nat) : (delay n s).host = s.host := (rfl)
@[simp] theorem delay_trace (n : Nat) : (delay n s).trace = s.trace ++ [.delay n] := (rfl)
@[simp] theorem delay_timeouts (n : Nat) : (delay n s).timeouts = s.timeouts := (rfl)

@[simp] theorem report_cfg : (report s).cfg = s.cfg := (rfl)
@[simp] theorem report_work : (report s).work = s.work := (rfl)
@[simp] theorem report_run : (report s).run = s.run := (rfl)
@[simp] theorem report_buf : (report s).buf = s.buf := (rfl)
@[simp] theorem report_shadow : (report s).shadow = s.shadow := (rfl)
@[simp] theorem report_rstctrl : (report s).rstctrl = s.rstctrl := (rfl)
@[simp] theorem report_env : (report s).env = s.env := (rfl)
@[simp] theorem report_host : (report s).host = s.host := (rfl)
@[simp] theorem report_trace : (report s).trace = s.trace ++ [.report] := (rfl)
@[simp] theorem report_timeouts : (report s).timeouts = s.timeouts := (rfl)

@[simp] theorem controllerReset_cfg : (controllerReset s).cfg = s.cfg := (rfl)
@[simp] theorem controllerReset_work : (controllerReset s).work = s.work := (rfl)
@[simp] theorem controllerReset_run : (controllerReset s).run = s.run := (rfl)
@[simp] theorem controllerReset_buf : (controllerReset s).buf = s.buf := (rfl)
@[simp] theorem controllerReset_shadow : (controllerReset s).shadow = s.cfg.ctrlReset := (rfl)
@[simp] theorem controllerReset_rstctrl : (controllerReset s).rstctrl = s.rstctrl := (rfl)
@[simp] theorem controllerReset_env : (controllerReset s).env = s.env := (rfl)
@[simp] theorem controllerReset_host : (controllerReset s).host = s.host := (rfl)
@[simp] theorem controllerReset_trace : (controllerReset s).trace = s.trace := (rfl)
@[simp] theorem controllerReset_timeouts : (controllerReset s).timeouts = s.timeouts := (rfl)

end Sys2Proof.Machine
end

