-- ==== Sys2Proof/Laws/Memory.lean ====
section
/-! SUPPORT. The basic laws of byte memories: read after write, and that a write keeps the canonical form and the
bounds. -/

namespace Sys2Proof.Machine

namespace Memory

@[simp] theorem read_nil (a : Nat) : Memory.read [] a = none := rfl

theorem read_write_same (m : Memory) (a : Nat) (b : Byte) : Memory.read (Memory.write m a b) a = some b := by
  induction m with
  | nil => simp [Memory.write, Memory.read]
  | cons x m ih =>
    obtain ⟨k, v⟩ := x
    simp only [Memory.write]
    split
    · simp [Memory.read]
    · split
      · simp [Memory.read]
      · next h => simp [Memory.read, ih, Ne.symm h]

theorem read_write_other (m : Memory) {a a' : Nat} (b : Byte) (h : a' ≠ a) :
    Memory.read (Memory.write m a b) a' = Memory.read m a' := by
  induction m with
  | nil => simp [Memory.write, Memory.read, Ne.symm h]
  | cons x m ih =>
    obtain ⟨k, v⟩ := x
    simp only [Memory.write]
    split
    · simp [Memory.read, Ne.symm h]
    · split
      · next hak => simp [Memory.read, Ne.symm h, ← hak]
      · simp [Memory.read, ih]

theorem read_write (m : Memory) (a a' : Nat) (b : Byte) :
    Memory.read (Memory.write m a b) a' = if a' = a then some b else Memory.read m a' := by
  split
  · next h => rw [h, read_write_same]
  · next h => exact read_write_other m b h

/-- Every cell of a written memory is the written one or was there before. -/
theorem mem_write {m : Memory} {a : Nat} {b : Byte} {x : Host.Cell} (h : x ∈ Memory.write m a b) :
    x = (a, b) ∨ x ∈ m := by
  induction m with
  | nil => simpa [Memory.write] using h
  | cons y m ih =>
    obtain ⟨k, v⟩ := y
    simp only [Memory.write] at h
    split at h
    · simpa using h
    · split at h
      · simp only [List.mem_cons] at h ⊢
        tauto
      · simp only [List.mem_cons] at h ⊢
        rcases h with h | h
        · exact .inr (.inl h)
        · exact (ih h).imp_right .inr

/-- A write keeps the canonical form. -/
theorem wf_write {m : Memory} (h : Memory.wf m) (a : Nat) (b : Byte) : Memory.wf (Memory.write m a b) := by
  induction m with
  | nil => simp [Memory.write]
  | cons x m ih =>
    obtain ⟨k, v⟩ := x
    obtain ⟨h1, h2⟩ := List.pairwise_cons.1 h
    simp only [Memory.write]
    split
    · next hlt =>
      refine List.pairwise_cons.2 ⟨fun y hy => ?_, h⟩
      rcases List.mem_cons.1 hy with rfl | hy
      · exact hlt
      · exact Nat.lt_trans hlt (h1 y hy)
    · next hlt =>
      split
      · next heq => exact List.pairwise_cons.2 ⟨fun y hy => heq ▸ h1 y hy, h2⟩
      · next hne =>
        refine List.pairwise_cons.2 ⟨fun y hy => ?_, ih h2⟩
        rcases mem_write hy with rfl | hy
        · show k < a
          omega
        · exact h1 y hy

/-- A write inside a bound keeps every cell inside it. -/
theorem bound_write {m : Memory} {n a : Nat} (h : ∀ x ∈ m, x.1 < n) (ha : a < n) (b : Byte) :
    ∀ x ∈ Memory.write m a b, x.1 < n := by
  intro x hx
  rcases mem_write hx with rfl | hx
  · exact ha
  · exact h x hx

theorem wf_writeList {m : Memory} (h : Memory.wf m) (a : Nat) (bs : List Byte) :
    Memory.wf (Memory.writeList m a bs) := by
  induction bs generalizing m a with
  | nil => exact h
  | cons b bs ih => exact ih (wf_write h a b) (a + 1)

theorem bound_writeList {m : Memory} {n : Nat} (h : ∀ x ∈ m, x.1 < n) (a : Nat) (bs : List Byte)
    (ha : a + bs.length ≤ n) : ∀ x ∈ Memory.writeList m a bs, x.1 < n := by
  induction bs generalizing m a with
  | nil => exact h
  | cons b bs ih =>
    simp only [List.length_cons] at ha
    exact ih (bound_write h (by omega) b) (a + 1) (by omega)

/-- A list write gives its bytes at its addresses and leaves every other address alone. -/
theorem read_writeList (m : Memory) (a : Nat) (bs : List Byte) (i : Nat) :
    Memory.read (Memory.writeList m a bs) i =
      if a ≤ i ∧ i < a + bs.length then bs[i - a]? else Memory.read m i := by
  induction bs generalizing m a with
  | nil => simp [Memory.writeList]
  | cons b bs ih =>
    simp only [Memory.writeList, ih, read_write, List.length_cons]
    by_cases h1 : i = a
    · subst h1
      simp
    · by_cases h2 : a + 1 ≤ i ∧ i < a + 1 + bs.length
      · have h3 : a ≤ i ∧ i < a + (bs.length + 1) := by omega
        obtain ⟨j, rfl⟩ : ∃ j, i = a + (j + 1) := ⟨i - a - 1, by omega⟩
        simp [h3, h2, show a + (j + 1) - (a + 1) = j by omega, show a + (j + 1) - a = j + 1 by omega]
      · have h3 : ¬(a ≤ i ∧ i < a + (bs.length + 1)) := by omega
        rw [if_neg h2, if_neg h3, if_neg h1]

end Memory

namespace State

/-- `BUF[i]` after `BUF[a] <- b`. -/
theorem bufByte_bufStore (s : State) (a i : Nat) (b : Byte) :
    (s.bufStore a b).bufByte i = if i = a then b else s.bufByte i := by
  simp only [bufByte, bufStore_buf, Memory.read_write]
  split <;> rfl

/-- `BUF[i]` depends on BUF alone. -/
theorem bufByte_congr {s t : State} (h : t.buf = s.buf) (i : Nat) : t.bufByte i = s.bufByte i := by
  simp [bufByte, h]

end State

end Sys2Proof.Machine
end

