-- ==== Sys2Proof/Laws/Operands.lean ====
section
/-! SUPPORT. What each operand form does to each field, and when a command is accepted. -/

namespace Sys2Proof.Machine

variable (s : State)

@[simp] theorem latch_cfg (i : Instr) : (latch i s).cfg = s.cfg := (rfl)
@[simp] theorem latch_work (i : Instr) : (latch i s).work = { s.work with op := i.opcode, addr := i.address, len := i.length } := (rfl)
@[simp] theorem latch_run (i : Instr) : (latch i s).run = s.run := (rfl)
@[simp] theorem latch_buf (i : Instr) : (latch i s).buf = s.buf := (rfl)
@[simp] theorem latch_shadow (i : Instr) : (latch i s).shadow = s.shadow := (rfl)
@[simp] theorem latch_rstctrl (i : Instr) : (latch i s).rstctrl = s.rstctrl := (rfl)
@[simp] theorem latch_env (i : Instr) : (latch i s).env = s.env := (rfl)
@[simp] theorem latch_host (i : Instr) : (latch i s).host = s.host := (rfl)
@[simp] theorem latch_trace (i : Instr) : (latch i s).trace = s.trace := (rfl)
@[simp] theorem latch_timeouts (i : Instr) : (latch i s).timeouts = s.timeouts := (rfl)

@[simp] theorem sliceOfBlock_cfg (size : Word) : (sliceOfBlock size s).cfg = s.cfg := (rfl)
@[simp] theorem sliceOfBlock_work (size : Word) : (sliceOfBlock size s).work = { s.work with a := s.work.addr + size * s.work.b, bo := size * s.work.b } := (rfl)
@[simp] theorem sliceOfBlock_run (size : Word) : (sliceOfBlock size s).run = s.run := (rfl)
@[simp] theorem sliceOfBlock_buf (size : Word) : (sliceOfBlock size s).buf = s.buf := (rfl)
@[simp] theorem sliceOfBlock_shadow (size : Word) : (sliceOfBlock size s).shadow = s.shadow := (rfl)
@[simp] theorem sliceOfBlock_rstctrl (size : Word) : (sliceOfBlock size s).rstctrl = s.rstctrl := (rfl)
@[simp] theorem sliceOfBlock_env (size : Word) : (sliceOfBlock size s).env = s.env := (rfl)
@[simp] theorem sliceOfBlock_host (size : Word) : (sliceOfBlock size s).host = s.host := (rfl)
@[simp] theorem sliceOfBlock_trace (size : Word) : (sliceOfBlock size s).trace = s.trace := (rfl)
@[simp] theorem sliceOfBlock_timeouts (size : Word) : (sliceOfBlock size s).timeouts = s.timeouts := (rfl)

@[simp] theorem sliceOfTail_cfg (size : Word) : (sliceOfTail size s).cfg = s.cfg := (rfl)
@[simp] theorem sliceOfTail_work (size : Word) : (sliceOfTail size s).work = { s.work with a := s.work.addr + size * s.work.nblk + s.work.k, bo := size * s.work.nblk + s.work.k } := (rfl)
@[simp] theorem sliceOfTail_run (size : Word) : (sliceOfTail size s).run = s.run := (rfl)
@[simp] theorem sliceOfTail_buf (size : Word) : (sliceOfTail size s).buf = s.buf := (rfl)
@[simp] theorem sliceOfTail_shadow (size : Word) : (sliceOfTail size s).shadow = s.shadow := (rfl)
@[simp] theorem sliceOfTail_rstctrl (size : Word) : (sliceOfTail size s).rstctrl = s.rstctrl := (rfl)
@[simp] theorem sliceOfTail_env (size : Word) : (sliceOfTail size s).env = s.env := (rfl)
@[simp] theorem sliceOfTail_host (size : Word) : (sliceOfTail size s).host = s.host := (rfl)
@[simp] theorem sliceOfTail_trace (size : Word) : (sliceOfTail size s).trace = s.trace := (rfl)
@[simp] theorem sliceOfTail_timeouts (size : Word) : (sliceOfTail size s).timeouts = s.timeouts := (rfl)

@[simp] theorem sliceOfByte_cfg : (sliceOfByte s).cfg = s.cfg := (rfl)
@[simp] theorem sliceOfByte_work : (sliceOfByte s).work = { s.work with a := s.work.addr + s.work.k, bo := s.work.k } := (rfl)
@[simp] theorem sliceOfByte_run : (sliceOfByte s).run = s.run := (rfl)
@[simp] theorem sliceOfByte_buf : (sliceOfByte s).buf = s.buf := (rfl)
@[simp] theorem sliceOfByte_shadow : (sliceOfByte s).shadow = s.shadow := (rfl)
@[simp] theorem sliceOfByte_rstctrl : (sliceOfByte s).rstctrl = s.rstctrl := (rfl)
@[simp] theorem sliceOfByte_env : (sliceOfByte s).env = s.env := (rfl)
@[simp] theorem sliceOfByte_host : (sliceOfByte s).host = s.host := (rfl)
@[simp] theorem sliceOfByte_trace : (sliceOfByte s).trace = s.trace := (rfl)
@[simp] theorem sliceOfByte_timeouts : (sliceOfByte s).timeouts = s.timeouts := (rfl)

@[simp] theorem splitLength_cfg (size : Word) : (splitLength size s).cfg = s.cfg := (rfl)
@[simp] theorem splitLength_work (size : Word) : (splitLength size s).work = { s.work with nblk := s.work.len / size, rem := s.work.len % size } := (rfl)
@[simp] theorem splitLength_run (size : Word) : (splitLength size s).run = s.run := (rfl)
@[simp] theorem splitLength_buf (size : Word) : (splitLength size s).buf = s.buf := (rfl)
@[simp] theorem splitLength_shadow (size : Word) : (splitLength size s).shadow = s.shadow := (rfl)
@[simp] theorem splitLength_rstctrl (size : Word) : (splitLength size s).rstctrl = s.rstctrl := (rfl)
@[simp] theorem splitLength_env (size : Word) : (splitLength size s).env = s.env := (rfl)
@[simp] theorem splitLength_host (size : Word) : (splitLength size s).host = s.host := (rfl)
@[simp] theorem splitLength_trace (size : Word) : (splitLength size s).trace = s.trace := (rfl)
@[simp] theorem splitLength_timeouts (size : Word) : (splitLength size s).timeouts = s.timeouts := (rfl)

end Sys2Proof.Machine
end

