-- ==== Sys2Proof/Laws/Engine.lean ====
section
/-! SUPPORT. What the ENGINE's polls, positions and loops can do: each says once, as an equation for the final state,
everything the operation changes. -/

namespace Sys2Proof.Machine

/-- The state after STATUS samples `vs`: only `J`, `V`, ENV and the TRACE differ. -/
def sampled (s : State) (vs : List Word) (j v : Word) (e : Env) : State :=
  { s with work := { s.work with j := j, v := v }, env := e, trace := s.trace ++ vs.map (Event.read .status) }

/-- A hit after the samples `vs`: the last one meets the test and is in `V`, the ones before do not. -/
def Hit (test : Word → Bool) (vs : List Word) (v : Word) : Prop :=
  ∃ vs', vs = vs' ++ [v] ∧ test v = true ∧ ∀ w ∈ vs', test w = false

/-- A miss of `n` samples. -/
def Miss (test : Word → Bool) (n : Nat) (vs : List Word) : Prop := vs.length = n ∧ ∀ w ∈ vs, test w = false

theorem Hit.cons {test : Word → Bool} {vs : List Word} {v w : Word} (hw : test w = false) (h : Hit test vs v) :
    Hit test (w :: vs) v := by
  obtain ⟨vs', rfl, hv, hall⟩ := h
  exact ⟨w :: vs', rfl, hv, by simpa [hw] using hall⟩

theorem Miss.cons {test : Word → Bool} {n : Nat} {vs : List Word} {w : Word} (hw : test w = false)
    (h : Miss test n vs) : Miss test (n + 1) (w :: vs) :=
  ⟨by simp [h.1], by simpa [hw] using h.2⟩

/-- A poll takes at most `n` samples, ends at the first that meets the test, and changes only `J`, `V`, ENV and the
TRACE (R102, R103). -/
theorem pollLoop_spec (test : Word → Bool) (n : Nat) (s : State) :
    ∃ ok vs j v e, pollLoop test n s = (ok, sampled s vs j v e) ∧ vs.length ≤ n ∧
      ((ok = true ∧ Hit test vs v) ∨ (ok = false ∧ Miss test n vs)) := by
  induction n generalizing s with
  | zero => exact ⟨false, [], s.work.j, s.work.v, s.env, by simp [pollLoop, sampled], by simp, .inr ⟨rfl, rfl, by simp⟩⟩
  | succ n ih =>
    simp only [pollLoop, busRead_work]
    by_cases h : test (s.env.answer s.cfg .status).1 = true
    · rw [if_pos h]
      exact ⟨true, [(s.env.answer s.cfg .status).1], s.work.j, (s.env.answer s.cfg .status).1,
        (s.env.answer s.cfg .status).2, rfl, by simp, .inl ⟨rfl, [], rfl, h, by simp⟩⟩
    · rw [if_neg h]
      obtain ⟨ok, vs, j, v, e, heq, hlen, hr⟩ := ih ((busRead .status s).setJ (s.work.j + 1#32))
      refine ⟨ok, (s.env.answer s.cfg .status).1 :: vs, j, v, e, ?_, by simp; omega, ?_⟩
      · rw [heq]
        simp [sampled, busRead, State.setJ, State.setV, State.emit, State.withWork, State.withEnv, State.withTrace]
      · have hw := Bool.eq_false_iff.2 h
        exact hr.imp (fun ⟨a, b⟩ => ⟨a, b.cons hw⟩) (fun ⟨a, b⟩ => ⟨a, b.cons hw⟩)

theorem poll_spec (test : Word → Bool) (n : Nat) (s : State) :
    ∃ ok vs j v e, poll test n s = (ok, sampled s vs j v e) ∧ vs.length ≤ n ∧
      ((ok = true ∧ Hit test vs v) ∨ (ok = false ∧ Miss test n vs)) := by
  obtain ⟨ok, vs, j, v, e, h, h'⟩ := pollLoop_spec test n (s.setJ 0#32)
  exact ⟨ok, vs, j, v, e, by rw [poll, h]; rfl, h'⟩

/-- `WaitIdle` (R103). -/
theorem waitIdle_spec (t : Timeout) (s : State) :
    ∃ vs j v e ts, waitIdle t s = (sampled s vs j v e).withTimeouts (s.timeouts ++ ts) ∧
      vs.length ≤ s.cfg.busyLoop ∧
      ((ts = [] ∧ Hit statusIdle vs v) ∨ (ts = [t] ∧ Miss statusIdle s.cfg.busyLoop vs)) := by
  obtain ⟨ok, vs, j, v, e, h, hlen, hr⟩ := poll_spec statusIdle s.cfg.busyLoop s
  rcases hr with ⟨rfl, hr⟩ | ⟨rfl, hr⟩
  · exact ⟨vs, j, v, e, [], by simp [waitIdle, h, sampled, State.withTimeouts], hlen, .inl ⟨rfl, hr⟩⟩
  · exact ⟨vs, j, v, e, [t], by simp [waitIdle, h, sampled, State.noteTimeout], hlen, .inr ⟨rfl, hr⟩⟩

/-- The state after some of BUSW's byte positions. -/
def sent (s : State) (i j v : Word) (e : Env) (d : Word) (evs : List Event) (ts : List Timeout) : State :=
  { s with
    work := { s.work with i := i, j := j, v := v }, env := e, shadow := { s.shadow with dataout := d },
    trace := s.trace ++ evs, timeouts := s.timeouts ++ ts }

/-- One byte position of BUSW (R108): samples and a DATAOUT write of this position's byte, or a timeout that writes
nothing. -/
theorem buswPosition_spec (s : State) :
    ∃ vs j v e d evs ts, buswPosition s = sent s (s.work.i + 1#32) j v e d evs ts ∧
      vs.length ≤ s.cfg.maxBusyLoop ∧
      ((ts = [] ∧ Hit statusTxEmpty vs v ∧ d = nextByte s ∧
          evs = vs.map (Event.read .status) ++ [.write .dataout (nextByte s)]) ∨
       (ts = [.tx s.work.i] ∧ Miss statusTxEmpty s.cfg.maxBusyLoop vs ∧ d = s.shadow.dataout ∧
          evs = vs.map (Event.read .status))) := by
  obtain ⟨ok, vs, j, v, e, h, hlen, hr⟩ := poll_spec statusTxEmpty s.cfg.maxBusyLoop s
  rcases hr with ⟨rfl, hr⟩ | ⟨rfl, hr⟩
  · refine ⟨vs, j, v, e.observe s.cfg .dataout (nextByte s), nextByte s, _, [], ?_, hlen, .inl ⟨rfl, hr, rfl, rfl⟩⟩
    simp only [buswPosition, pollSet, h]
    simp [sampled, sent, busWrite, setShadow, nextByte, State.bufByte, State.setI, State.emit, State.withWork,
      State.withEnv, State.withTrace, State.withShadow, State.withRstctrl]
  · refine ⟨vs, j, v, e, s.shadow.dataout, _, [.tx s.work.i], ?_, hlen, .inr ⟨rfl, hr, rfl, rfl⟩⟩
    simp only [buswPosition, pollSet, h]
    simp [sampled, sent, State.noteTimeout, State.setI, State.withWork, State.withTimeouts]

/-- `nextByte` reads only the arguments, `I`, BUF and the configuration. -/
theorem nextByte_congr {s t : State} (hc : t.cfg = s.cfg) (hb : t.buf = s.buf) (h1 : t.work.ta = s.work.ta)
    (h2 : t.work.bo = s.work.bo) (h3 : t.work.i = s.work.i) : nextByte t = nextByte s := by
  simp [nextByte, State.bufByte, hc, hb, h1, h2, h3]

/-- BUSW's byte loop changes only `I`, `J`, `V`, ENV, the shadow of DATAOUT, the TRACE and the ghost record. -/
theorem buswLoop_frame (n : Nat) (s : State) :
    ∃ j v e d evs ts, buswLoop n s = sent s (s.work.i + BitVec.ofNat 32 n) j v e d evs ts := by
  induction n generalizing s with
  | zero => exact ⟨s.work.j, s.work.v, s.env, s.shadow.dataout, [], [], by simp [buswLoop, sent]⟩
  | succ n ih =>
    obtain ⟨vs, j, v, e, d, evs, ts, h, -⟩ := buswPosition_spec s
    obtain ⟨j', v', e', d', evs', ts', h'⟩ := ih (buswPosition s)
    refine ⟨j', v', e', d', evs ++ evs', ts ++ ts', ?_⟩
    rw [buswLoop, h', h]
    have hi : s.work.i + 1#32 + BitVec.ofNat 32 n = s.work.i + BitVec.ofNat 32 (n + 1) := by bv_omega
    simp [sent, hi]

/-- The state after some of BUSR's byte positions. -/
def received (s : State) (i j v : Word) (e : Env) (m : Memory) (evs : List Event) (ts : List Timeout) : State :=
  { s with
    work := { s.work with i := i, j := j, v := v }, env := e, buf := m, trace := s.trace ++ evs,
    timeouts := s.timeouts ++ ts }

/-- One byte position of BUSR (R111): samples, a DATAIN read and a byte into BUF, or a timeout that leaves BUF. -/
theorem busrPosition_spec (s : State) :
    ∃ vs j v e m evs ts, busrPosition s = received s (s.work.i + 1#32) j v e m evs ts ∧
      vs.length ≤ s.cfg.maxBusyLoop ∧
      ((ts = [] ∧ (∃ w, Hit statusDataReady vs w) ∧
          m = Memory.write s.buf (s.work.bo + s.work.i).toNat v.lowByte ∧
          evs = vs.map (Event.read .status) ++ [.read .datain v]) ∨
       (ts = [.rx s.work.i] ∧ Miss statusDataReady s.cfg.maxBusyLoop vs ∧ m = s.buf ∧
          evs = vs.map (Event.read .status))) := by
  obtain ⟨ok, vs, j, v, e, h, hlen, hr⟩ := poll_spec statusDataReady s.cfg.maxBusyLoop s
  rcases hr with ⟨rfl, hr⟩ | ⟨rfl, hr⟩
  · refine ⟨vs, j, (e.answer s.cfg .datain).1, (e.answer s.cfg .datain).2, _, _, [], ?_, hlen,
      .inl ⟨rfl, ⟨v, hr⟩, rfl, rfl⟩⟩
    simp only [busrPosition, pollSet, h]
    simp [sampled, received, busRead, State.setI, State.setV, State.bufStore, State.emit, State.withWork,
      State.withEnv, State.withTrace, State.withBuf]
  · refine ⟨vs, j, v, e, s.buf, _, [.rx s.work.i], ?_, hlen, .inr ⟨rfl, hr, rfl, rfl⟩⟩
    simp only [busrPosition, pollSet, h]
    simp [sampled, received, State.noteTimeout, State.setI, State.withWork, State.withTimeouts]

/-- BUSR's byte loop changes only `I`, `J`, `V`, ENV, BUF, the TRACE and the ghost record. -/
theorem busrLoop_frame (n : Nat) (s : State) :
    ∃ j v e m evs ts, busrLoop n s = received s (s.work.i + BitVec.ofNat 32 n) j v e m evs ts := by
  induction n generalizing s with
  | zero => exact ⟨s.work.j, s.work.v, s.env, s.buf, [], [], by simp [busrLoop, received]⟩
  | succ n ih =>
    obtain ⟨vs, j, v, e, m, evs, ts, h, -⟩ := busrPosition_spec s
    obtain ⟨j', v', e', m', evs', ts', h'⟩ := ih (busrPosition s)
    refine ⟨j', v', e', m', evs ++ evs', ts ++ ts', ?_⟩
    rw [busrLoop, h', h]
    have hi : s.work.i + 1#32 + BitVec.ofNat 32 n = s.work.i + BitVec.ofNat 32 (n + 1) := by bv_omega
    simp [received, hi]

end Sys2Proof.Machine
end

