-- ==== Sys2Proof/Laws/Frames.lean ====
section
/-! SUPPORT. Frames: what every transaction, and every MAPPER operation, leaves unchanged. -/

namespace Sys2Proof.Machine

/-- What no transaction and no MAPPER operation changes, and that the TRACE and the ghost record only grow. -/
structure Kept (s t : State) : Prop where
  cfg : t.cfg = s.cfg
  run : t.run = s.run
  host : t.host = s.host
  rstctrl : t.rstctrl = s.rstctrl
  shadowConfig : t.shadow.config = s.shadow.config
  shadowClkdiv : t.shadow.clkdiv = s.shadow.clkdiv
  shadowAddr : t.shadow.addr = s.shadow.addr
  op : t.work.op = s.work.op
  addr : t.work.addr = s.work.addr
  len : t.work.len = s.work.len
  trace : ∃ evs, t.trace = s.trace ++ evs
  timeouts : ∃ ts, t.timeouts = s.timeouts ++ ts

/-- What a single transaction leaves besides: the registers of the MAPPER's loops. -/
structure KeptLoop (s t : State) : Prop extends Kept s t where
  nblk : t.work.nblk = s.work.nblk
  rem : t.work.rem = s.work.rem
  b : t.work.b = s.work.b
  k : t.work.k = s.work.k

theorem Kept.refl (s : State) : Kept s s :=
  ⟨rfl, rfl, rfl, rfl, rfl, rfl, rfl, rfl, rfl, rfl, ⟨[], by simp⟩, ⟨[], by simp⟩⟩

theorem Kept.trans {s t u : State} (h : Kept s t) (g : Kept t u) : Kept s u := by
  obtain ⟨e1, h1⟩ := h.trace
  obtain ⟨e2, h2⟩ := g.trace
  obtain ⟨t1, h3⟩ := h.timeouts
  obtain ⟨t2, h4⟩ := g.timeouts
  exact ⟨g.cfg.trans h.cfg, g.run.trans h.run, g.host.trans h.host, g.rstctrl.trans h.rstctrl,
    g.shadowConfig.trans h.shadowConfig, g.shadowClkdiv.trans h.shadowClkdiv, g.shadowAddr.trans h.shadowAddr,
    g.op.trans h.op, g.addr.trans h.addr, g.len.trans h.len, ⟨e1 ++ e2, by rw [h2, h1, List.append_assoc]⟩,
    ⟨t1 ++ t2, by rw [h4, h3, List.append_assoc]⟩⟩

theorem KeptLoop.refl (s : State) : KeptLoop s s := ⟨Kept.refl s, rfl, rfl, rfl, rfl⟩

theorem KeptLoop.trans {s t u : State} (h : KeptLoop s t) (g : KeptLoop t u) : KeptLoop s u :=
  ⟨h.toKept.trans g.toKept, g.nblk.trans h.nblk, g.rem.trans h.rem, g.b.trans h.b, g.k.trans h.k⟩

/-- A write of the working registers keeps what the registers it does not touch keep. -/
theorem Kept.work (s : State) (w : Work) (h1 : w.op = s.work.op) (h2 : w.addr = s.work.addr)
    (h3 : w.len = s.work.len) : Kept s (s.withWork w) :=
  ⟨rfl, rfl, rfl, rfl, rfl, rfl, rfl, h1, h2, h3, ⟨[], by simp⟩, ⟨[], by simp⟩⟩

theorem Kept.setB (s : State) (v : Word) : Kept s (s.setB v) := Kept.work _ _ rfl rfl rfl
theorem Kept.setK (s : State) (v : Word) : Kept s (s.setK v) := Kept.work _ _ rfl rfl rfl
theorem Kept.splitLength (s : State) (z : Word) : Kept s (splitLength z s) := Kept.work _ _ rfl rfl rfl

theorem KeptLoop.sliceOfBlock (s : State) (z : Word) : KeptLoop s (sliceOfBlock z s) :=
  ⟨Kept.work _ _ rfl rfl rfl, rfl, rfl, rfl, rfl⟩

theorem KeptLoop.sliceOfTail (s : State) (z : Word) : KeptLoop s (sliceOfTail z s) :=
  ⟨Kept.work _ _ rfl rfl rfl, rfl, rfl, rfl, rfl⟩

theorem KeptLoop.sliceOfByte (s : State) : KeptLoop s (sliceOfByte s) :=
  ⟨Kept.work _ _ rfl rfl rfl, rfl, rfl, rfl, rfl⟩

theorem KeptLoop.delay (s : State) (n : Nat) : KeptLoop s (delay n s) :=
  ⟨⟨rfl, rfl, rfl, rfl, rfl, rfl, rfl, rfl, rfl, rfl, ⟨_, rfl⟩, ⟨[], by simp⟩⟩, rfl, rfl, rfl, rfl⟩

/-- What BUSW changes (R108): its argument and loop registers, ENV, the shadows of BYTECNT, DATAOUT and STARTXFR, the
TRACE and the ghost record. BUF is only read. -/
theorem busw_spec (ta bo tn : Word) (s : State) :
    ∃ (j v : Word) (e : Env) (d : Word) (evs : List Event) (ts : List Timeout), busw ta bo tn s =
      { s with
        work :=
          { s.work with
            ta := ta, bo := bo, tn := tn, tot := tn + s.cfg.addrWord, i := tn + s.cfg.addrWord - 1#32, j := j,
            v := v }
        env := e
        shadow :=
          { s.shadow with bytecnt := tn + s.cfg.addrWord - 1#32, startxfr := Config.startWrite, dataout := d }
        trace := s.trace ++ evs
        timeouts := s.timeouts ++ ts } := by
  obtain ⟨j, v, e, d, evs, ts, h⟩ := buswLoop_frame (tn + s.cfg.addrWord - 1#32).toNat (buswStart (s.setBusw ta bo tn))
  obtain ⟨vs, j', v', e', ts', h', -⟩ := waitIdle_spec .busyW (buswLoop (tn + s.cfg.addrWord - 1#32).toNat (buswStart (s.setBusw ta bo tn)))
  refine ⟨j', v', e', d, [.write .bytecnt (tn + s.cfg.addrWord - 1#32),
    .write .dataout (firstByte (busWrite .bytecnt (tn + s.cfg.addrWord - 1#32) (s.setBusw ta bo tn))), .write .startxfr Config.startWrite] ++ evs ++
      vs.map (Event.read .status), ts ++ ts', ?_⟩
  have hb : busw ta bo tn s = waitIdle .busyW (buswLoop (tn + s.cfg.addrWord - 1#32).toNat (buswStart (s.setBusw ta bo tn))) := rfl
  rw [hb, h', h, BitVec.ofNat_toNat, BitVec.setWidth_eq]
  simp [sampled, sent, buswStart, busWrite, State.setI, State.setBusw, State.emit, State.withWork, State.withEnv,
    State.withTrace, State.withShadow, State.withRstctrl, State.withTimeouts, setShadow]

/-- What BUSR changes (R111): its argument and loop registers, ENV, BUF, the shadows of BYTECNT and STARTXFR, the
TRACE and the ghost record. -/
theorem busr_spec (bo tn : Word) (s : State) :
    ∃ (j v : Word) (e : Env) (m : Memory) (evs : List Event) (ts : List Timeout), busr bo tn s =
      { s with
        work := { s.work with bo := bo, tn := tn, i := tn, j := j, v := v }
        env := e
        buf := m
        shadow := { s.shadow with bytecnt := tn - 1#32, startxfr := Config.startRead }
        trace := s.trace ++ evs
        timeouts := s.timeouts ++ ts } := by
  obtain ⟨j, v, e, m, evs, ts, h⟩ := busrLoop_frame tn.toNat (busrStart (s.setBusr bo tn))
  obtain ⟨vs, j', v', e', ts', h', -⟩ := waitIdle_spec .busyR (busrLoop tn.toNat (busrStart (s.setBusr bo tn)))
  refine ⟨j', v', e', m, [.write .bytecnt (tn - 1#32), .write .startxfr Config.startRead] ++ evs ++
      vs.map (Event.read .status), ts ++ ts', ?_⟩
  have hb : busr bo tn s = waitIdle .busyR (busrLoop tn.toNat (busrStart (s.setBusr bo tn))) := rfl
  rw [hb, h', h, BitVec.ofNat_toNat, BitVec.setWidth_eq]
  simp [sampled, received, busrStart, busWrite, State.setI, State.setBusr, State.emit, State.withWork, State.withEnv,
    State.withTrace, State.withShadow, State.withRstctrl, State.withTimeouts, setShadow]

theorem busw_kept (ta bo tn : Word) (s : State) : KeptLoop s (busw ta bo tn s) := by
  obtain ⟨j, v, e, d, evs, ts, h⟩ := busw_spec ta bo tn s
  rw [h]
  exact ⟨⟨rfl, rfl, rfl, rfl, rfl, rfl, rfl, rfl, rfl, rfl, ⟨_, rfl⟩, ⟨_, rfl⟩⟩, rfl, rfl, rfl, rfl⟩

theorem busr_kept (bo tn : Word) (s : State) : KeptLoop s (busr bo tn s) := by
  obtain ⟨j, v, e, m, evs, ts, h⟩ := busr_spec bo tn s
  rw [h]
  exact ⟨⟨rfl, rfl, rfl, rfl, rfl, rfl, rfl, rfl, rfl, rfl, ⟨_, rfl⟩, ⟨_, rfl⟩⟩, rfl, rfl, rfl, rfl⟩

/-- BUSW leaves BUF, `A` and the page register (R110). -/
theorem busw_leaves (ta bo tn : Word) (s : State) :
    (busw ta bo tn s).buf = s.buf ∧ (busw ta bo tn s).work.a = s.work.a ∧ (busw ta bo tn s).work.bo = bo ∧
      (busw ta bo tn s).work.page = s.work.page ∧ (busw ta bo tn s).shadow.devaddr = s.shadow.devaddr := by
  obtain ⟨j, v, e, d, evs, ts, h⟩ := busw_spec ta bo tn s
  rw [h]
  exact ⟨rfl, rfl, rfl, rfl, rfl⟩

/-- BUSR leaves `A`, the page register and the shadows of DEVADDR and DATAOUT. -/
theorem busr_leaves (bo tn : Word) (s : State) :
    (busr bo tn s).work.a = s.work.a ∧ (busr bo tn s).work.bo = bo ∧ (busr bo tn s).work.page = s.work.page ∧
      (busr bo tn s).shadow.devaddr = s.shadow.devaddr ∧ (busr bo tn s).shadow.dataout = s.shadow.dataout := by
  obtain ⟨j, v, e, m, evs, ts, h⟩ := busr_spec bo tn s
  rw [h]
  exact ⟨rfl, rfl, rfl, rfl, rfl⟩

theorem pageSelect_kept (a : Word) (s : State) : KeptLoop s (pageSelect a s) := by
  unfold pageSelect
  split
  · exact ⟨⟨rfl, rfl, rfl, by simp, rfl, rfl, rfl, rfl, rfl, rfl, ⟨_, rfl⟩, ⟨[], by simp⟩⟩, rfl, rfl, rfl, rfl⟩
  · exact KeptLoop.refl s

/-- The page select leaves BUF and the slice registers. -/
theorem pageSelect_leaves (a : Word) (s : State) :
    (pageSelect a s).buf = s.buf ∧ (pageSelect a s).work.a = s.work.a ∧ (pageSelect a s).work.bo = s.work.bo := by
  unfold pageSelect
  split
  · exact ⟨rfl, rfl, rfl⟩
  · exact ⟨rfl, rfl, rfl⟩

theorem readAt_kept (n : Word) (s : State) : KeptLoop s (readAt n s) :=
  ((pageSelect_kept _ s).trans (busw_kept _ _ _ _)).trans (busr_kept _ _ _)

theorem writeAt_kept (n : Word) (s : State) : KeptLoop s (writeAt n s) :=
  ((pageSelect_kept _ s).trans (busw_kept _ _ _ _)).trans (KeptLoop.delay _ _)

theorem blockLoop_kept (z : Word) {act : State → State} (hact : ∀ s, KeptLoop s (act s)) (n : Nat) (s : State) :
    Kept s (blockLoop z act n s) ∧ (blockLoop z act n s).work.nblk = s.work.nblk ∧
      (blockLoop z act n s).work.rem = s.work.rem ∧
      (blockLoop z act n s).work.b = s.work.b + BitVec.ofNat 32 n := by
  induction n generalizing s with
  | zero => exact ⟨Kept.refl s, rfl, rfl, by simp [blockLoop]⟩
  | succ n ih =>
    have h := (KeptLoop.sliceOfBlock s z).trans (hact (sliceOfBlock z s))
    obtain ⟨h1, h2, h3, h4⟩ := ih ((act (sliceOfBlock z s)).setB ((act (sliceOfBlock z s)).work.b + 1#32))
    refine ⟨(h.toKept.trans (Kept.setB _ _)).trans h1, h2.trans h.nblk, h3.trans h.rem, h4.trans ?_⟩
    rw [setB_work, h.b]
    bv_omega

theorem tailLoop_kept (z : Word) {act : State → State} (hact : ∀ s, KeptLoop s (act s)) (n : Nat) (s : State) :
    Kept s (tailLoop z act n s) := by
  induction n generalizing s with
  | zero => exact Kept.refl s
  | succ n ih =>
    exact (((KeptLoop.sliceOfTail s z).trans (hact _)).toKept.trans (Kept.setK _ _)).trans (ih _)

theorem byteLoop_kept (n : Nat) (s : State) : Kept s (byteLoop n s) := by
  induction n generalizing s with
  | zero => exact Kept.refl s
  | succ n ih =>
    exact (((KeptLoop.sliceOfByte s).trans (readAt_kept _ _)).toKept.trans (Kept.setK _ _)).trans (ih _)

theorem eerd_kept (s : State) : Kept s (eerd s) :=
  ((((Kept.splitLength s _).trans (Kept.setB _ _)).trans (blockLoop_kept _ (readAt_kept _) _ _).1).trans
    (Kept.setK _ _)).trans (tailLoop_kept _ (readAt_kept _) _ _)

theorem eerd1_kept (s : State) : Kept s (eerd1 s) := (Kept.setK s _).trans (byteLoop_kept _ _)

theorem eewr_kept (s : State) : Kept s (eewr s) :=
  ((((Kept.splitLength s _).trans (Kept.setB _ _)).trans (blockLoop_kept _ (writeAt_kept _) _ _).1).trans
    (Kept.setK _ _)).trans (tailLoop_kept _ (writeAt_kept _) _ _)

end Sys2Proof.Machine
end

