-- ==== Sys2Proof/Laws/Driver.lean ====
section
/-! SUPPORT. What BUS_INIT does, and what a command that is accepted answers. -/

namespace Sys2Proof.Machine

@[simp] theorem baseDeviceAddress_eq : baseDeviceAddress = 0x28#32 := by decide

/-- BUS_INIT (R105, R106): everything it changes, up to ENV. -/
theorem busInit_spec (s : State) :
    ∃ e, busInit s =
      { s with
        work := { s.work with v := (s.env.answer s.cfg .rstctrl).1 }
        env := e
        shadow := initShadow s.cfg
        rstctrl := (s.env.answer s.cfg .rstctrl).1 &&& ~~~s.cfg.rstMask
        trace := s.trace ++ initEvents s.cfg (s.env.answer s.cfg .rstctrl).1 } := by
  refine ⟨(busInit s).env, ?_⟩
  refine State.mk.injEq .. |>.mpr ?_
  simp [busInit, writeDefaults, resetPulse, initShadow, initEvents, setShadow]

@[simp] theorem busInit_cfg (s : State) : (busInit s).cfg = s.cfg := by
  obtain ⟨e, h⟩ := busInit_spec s
  rw [h]

/-- A command answers a next state exactly when it is accepted, and then it is the body's state with `RUN = IDLE`. -/
theorem runCommand_next {i : Instr} {body : State → State} {s t : State} (h : runCommand i body s = .next t) :
    s.cfg.Valid ∧ s.run = .idle ∧ operandRefusal s.cfg i = none ∧ t = (body (latch i s)).withRun .idle := by
  unfold runCommand acceptRefusal at h
  by_cases hv : s.cfg.Valid
  · rw [if_pos hv] at h
    cases hr : s.run with
    | busy u => rw [hr] at h; cases h
    | idle =>
      rw [hr] at h
      simp only at h
      cases ho : operandRefusal s.cfg i with
      | some r => rw [ho] at h; cases h
      | none => rw [ho] at h; cases h; exact ⟨hv, rfl, rfl, rfl⟩
  · rw [if_neg hv] at h; cases h

/-- The operand checks of acceptance are exactly well-formedness (R77, R78). -/
theorem operandRefusal_none (c : Config) (i : Instr) : operandRefusal c i = none ↔ i.wellFormed c = true := by
  cases i <;> simp only [operandRefusal, Instr.wellFormed] <;> split <;> simp_all

/-- An accepted command runs. -/
theorem runCommand_accepts {i : Instr} (body : State → State) {s : State} (h : Accepts i s) :
    runCommand i body s = .next ((body (latch i s)).withRun .idle) := by
  obtain ⟨hv, hr, hw⟩ := h
  simp only [runCommand, acceptRefusal, if_pos hv, hr, (operandRefusal_none s.cfg i).2 hw]

/-- The body each command runs once its operands are latched. -/
def commandBody : Instr → State → State
  | .init _ _ => busInit
  | .read _ _ => fun s => eerd (busInit s)
  | .write _ _ => fun s => eewr (busInit s)
  | .dump _ _ => report
  | .busw _ _ => fun s => busw s.work.addr 0#32 s.work.len s
  | .busr _ _ => fun s => busr 0#32 s.work.len s
  | .eerd _ _ => eerd
  | .eerd1 _ _ => eerd1
  | .eewr _ _ => eewr

theorem exec_eq (i : Instr) (s : State) : exec i s = runCommand i (commandBody i) s := by
  cases i <;> rfl

/-- If a command answers a next state, it was accepted and ran its body. -/
theorem exec_next {i : Instr} {s t : State} (h : exec i s = .next t) :
    Accepts i s ∧ t = (commandBody i (latch i s)).withRun .idle := by
  rw [exec_eq] at h
  obtain ⟨hv, hr, ho, ht⟩ := runCommand_next h
  exact ⟨⟨hv, hr, (operandRefusal_none _ _).1 ho⟩, ht⟩

/-- An accepted command answers the state its body leaves. -/
theorem exec_accepts {i : Instr} {s : State} (h : Accepts i s) :
    exec i s = .next ((commandBody i (latch i s)).withRun .idle) := by
  rw [exec_eq, runCommand_accepts _ h]

end Sys2Proof.Machine
end

