-- ==== Sys2Proof/Laws/Invariant.lean ====
section
/-! SUPPORT. The part of the invariant that does not speak of `upc`: reset has it, and each primitive of the register
bus and BUF keeps it. -/

namespace Sys2Proof.Machine

/-- The invariant but for `upc`. -/
structure Static (s : State) : Prop where
  buf : BufOk s
  shadow : ShadowOk s.cfg s.shadow
  page : s.work.page.getLsbD 0 = false
  env : EnvOk s

/-- Reset's memory is canonical. -/
theorem reset_buf_wf : Memory.wf State.reset.buf := List.Pairwise.nil

theorem Static.congr {s t : State} (h : Static s) (h1 : t.cfg = s.cfg) (h2 : t.buf = s.buf)
    (h3 : t.shadow = s.shadow) (h4 : t.work.page = s.work.page) (h5 : t.env = s.env) : Static t := by
  refine ⟨?_, ?_, ?_, ?_⟩
  · simpa only [BufOk, h1, h2] using h.buf
  · rw [h1, h3]; exact h.shadow
  · rw [h4]; exact h.page
  · simpa only [EnvOk, h1, h5] using h.env

/-! ### ENV_IDEAL stays inside its array -/

/-- The array is canonical and bounded, and the pointer is inside it. -/
def IdealOk (c : Config) (e : Ideal) : Prop :=
  Memory.wf e.mem ∧ (∀ x ∈ e.mem, x.1 < c.eepromSize) ∧ e.ptr < c.eepromSize

theorem eepromSize_pos (c : Config) : 0 < c.eepromSize := by
  unfold Config.eepromSize
  split <;> decide

theorem store_ok (c : Config) (ds : List Byte) (e : Ideal) (h : IdealOk c e) :
    IdealOk c (Ideal.store c.eepromSize ds e) := by
  induction ds generalizing e with
  | nil => exact h
  | cons d ds ih =>
    exact ih _ ⟨Memory.wf_write h.1 _ _, Memory.bound_write h.2.1 h.2.2 _, Nat.mod_lt _ (eepromSize_pos c)⟩

theorem finish_ok (c : Config) (e : Ideal) (h : IdealOk c e) : IdealOk c (Ideal.finish c e) := by
  unfold Ideal.finish
  refine store_ok c _ _ ⟨h.1, h.2.1, ?_⟩
  show (if _ then _ else _) < _
  unfold Config.eepromSize
  beta_reduce
  generalize e.rx.getD 0 0#8 = q
  have hq := q.isLt
  split
  · generalize BitVec.extractLsb' 0 3 e.dev = p
    have hp := p.isLt
    show p.toNat * 256 + q.toNat < 2048
    omega
  · generalize e.rx.getD 1 0#8 = p
    have hp := p.isLt
    show q.toNat * 256 + p.toNat < 65536
    omega

theorem accept_ok (c : Config) (b : Byte) (e : Ideal) (h : IdealOk c e) : IdealOk c (Ideal.accept c b e) := by
  unfold Ideal.accept
  simp only
  split
  · exact finish_ok c _ h
  · exact h

/-- The condition on ENV alone. -/
def EnvOkIn (c : Config) (e : Env) : Prop :=
  match e with
  | .oracle _ _ => True
  | .ideal e => IdealOk c e

theorem envOk_iff (s : State) : EnvOk s ↔ EnvOkIn s.cfg s.env := by
  unfold EnvOk EnvOkIn
  cases s.env <;> rfl

theorem env_answer_ok {c : Config} {e : Env} (r : InReg) (h : EnvOkIn c e) : EnvOkIn c (e.answer c r).2 := by
  cases e with
  | oracle ws n => cases ws <;> trivial
  | ideal e =>
    cases r
    · exact h
    · exact ⟨h.1, h.2.1, Nat.mod_lt _ (eepromSize_pos c)⟩
    · exact h

theorem env_observe_ok {c : Config} {e : Env} (r : OutReg) (v : Word) (h : EnvOkIn c e) :
    EnvOkIn c (e.observe c r v) := by
  cases e with
  | oracle ws n => trivial
  | ideal e =>
    cases r <;> simp only [Env.observe, Ideal.observe] <;> first | exact h | skip
    all_goals split
    · exact accept_ok c _ _ h
    · exact h
    · exact accept_ok c _ _ h
    · exact h

/-! ### The primitives -/

theorem busRead_static {s : State} (h : Static s) (r : InReg) : Static (busRead r s) :=
  ⟨h.buf, h.shadow, h.page, (envOk_iff _).2 (env_answer_ok r ((envOk_iff _).1 h.env))⟩

/-- A write of a value SEQ may write. -/
theorem busWrite_static {s : State} (h : Static s) {r : OutReg} {v : Word} (hl : (Event.write r v).Legal s.cfg) :
    Static (busWrite r v s) := by
  refine ⟨h.buf, ?_, h.page, (envOk_iff _).2 (env_observe_ok r v ((envOk_iff _).1 h.env))⟩
  rw [busWrite_shadow, busWrite_cfg]
  have k := h.shadow
  cases r <;> simp only [setShadow, Event.Legal] at * <;> constructor <;>
    first
      | exact k.config
      | exact k.clkdiv
      | exact k.devaddr
      | exact k.addr
      | exact k.dataout
      | exact k.startxfr
      | exact k.bytecnt
      | exact .inr hl
      | exact .inr hl.1

theorem controllerReset_static {s : State} (h : Static s) : Static (controllerReset s) :=
  ⟨h.buf, ⟨.inl rfl, .inl rfl, .inl rfl, rfl, .inl rfl, .inl rfl, .inl rfl⟩, h.page, h.env⟩

theorem bufStore_static {s : State} (h : Static s) {i : Nat} (b : Byte) (hi : i < s.cfg.bufSize) :
    Static (s.bufStore i b) :=
  ⟨⟨Memory.wf_write h.buf.1 _ _, Memory.bound_write h.buf.2 hi _⟩, h.shadow, h.page, h.env⟩

/-! ### The page selector (R131, R132) -/

theorem shiftedPage_even (a : Word) : (shiftedPage a).getLsbD 0 = false := by simp [shiftedPage]

theorem deviceAddress_legal (p : BitVec 4) (h : p.getLsbD 0 = false) :
    ∃ sel : BitVec 3, deviceAddress p = 0x28#32 ||| sel.setWidth 32 := by
  refine ⟨p.extractLsb' 1 3, ?_⟩
  revert h
  revert p
  decide

theorem deviceAddress_shiftedPage (a : Word) : deviceAddress (shiftedPage a) = selectedDevice a := by
  unfold shiftedPage selectedDevice pageOf
  generalize BitVec.extractLsb' 8 3 a = p
  revert p
  decide

theorem firstByte_legal (s : State) (c : Config) : (Event.write .dataout (firstByte s)).Legal c := by
  unfold firstByte
  split <;> exact ⟨_, rfl⟩

theorem nextByte_legal (s : State) (c : Config) : (Event.write .dataout (nextByte s)).Legal c := by
  unfold nextByte
  split
  · split <;> exact ⟨_, rfl⟩
  · exact ⟨_, rfl⟩

end Sys2Proof.Machine
end

