-- ==== Sys2Proof/Laws/Micro.lean ====
section
/-! SUPPORT. The micro-steps: what an event changes, what the updates between two events leave unchanged, that they do
not look at `RUN`, and what the end of a step does. -/

namespace Sys2Proof.Machine

/-- Only the loop registers may differ: no event, no BUF byte, no shadow, no answer of ENV, nor `RUN`. -/
structure Quiet (s t : State) : Prop where
  cfg : t.cfg = s.cfg
  run : t.run = s.run
  buf : t.buf = s.buf
  shadow : t.shadow = s.shadow
  rstctrl : t.rstctrl = s.rstctrl
  env : t.env = s.env
  host : t.host = s.host
  trace : t.trace = s.trace
  timeouts : t.timeouts = s.timeouts
  op : t.work.op = s.work.op
  addr : t.work.addr = s.work.addr
  len : t.work.len = s.work.len

theorem Quiet.refl (s : State) : Quiet s s := ⟨rfl, rfl, rfl, rfl, rfl, rfl, rfl, rfl, rfl, rfl, rfl, rfl⟩

theorem Quiet.trans {s t u : State} (h : Quiet s t) (g : Quiet t u) : Quiet s u :=
  ⟨g.cfg.trans h.cfg, g.run.trans h.run, g.buf.trans h.buf, g.shadow.trans h.shadow, g.rstctrl.trans h.rstctrl,
    g.env.trans h.env, g.host.trans h.host, g.trace.trans h.trace, g.timeouts.trans h.timeouts, g.op.trans h.op, g.addr.trans h.addr,
    g.len.trans h.len⟩

theorem goto_quiet (u : Upc) (s : State) : Quiet s (goto u s).2 :=
  ⟨rfl, rfl, rfl, rfl, rfl, rfl, rfl, rfl, rfl, rfl, rfl, rfl⟩

theorem finish_quiet (s : State) : Quiet s (finish s).2 := ⟨rfl, rfl, rfl, rfl, rfl, rfl, rfl, rfl, rfl, rfl, rfl, rfl⟩

/-- Quiet bookkeeping after a write of loop registers. -/
theorem Quiet.following {s s' t : State} (g : Quiet s' t) (h : s' = s.withWork s'.work)
    (h1 : s'.work.op = s.work.op) (h2 : s'.work.addr = s.work.addr) (h3 : s'.work.len = s.work.len) : Quiet s t := by
  refine Quiet.trans ⟨?_, ?_, ?_, ?_, ?_, ?_, ?_, ?_, ?_, h1, h2, h3⟩ g <;> rw [h] <;> rfl

theorem enterBusw_quiet (c : BuswCaller) (ta bo tn : Word) (s : State) : Quiet s (enterBusw c ta bo tn s).2 :=
  (goto_quiet _ _).following rfl rfl rfl rfl

theorem enterBusr_quiet (c : BusrCaller) (bo tn : Word) (s : State) : Quiet s (enterBusr c bo tn s).2 :=
  (goto_quiet _ _).following rfl rfl rfl rfl

theorem enterTransaction_quiet (c : SelectCaller) (n : Word) (s : State) : Quiet s (enterTransaction c n s).2 := by
  cases c <;> exact enterBusw_quiet _ _ _ _ s

theorem enterSelect_quiet (c : SelectCaller) (n : Word) (s : State) : Quiet s (enterSelect c n s).2 := by
  unfold enterSelect
  split
  · exact (goto_quiet _ _).following rfl rfl rfl rfl
  · exact enterTransaction_quiet c n s

theorem tailHead_quiet (z : Word) (c : SelectCaller) (s : State) : Quiet s (tailHead z c s).2 := by
  unfold tailHead
  split
  · exact (enterSelect_quiet _ _ _).following rfl rfl rfl rfl
  · exact finish_quiet s

theorem blockHead_quiet (z : Word) (c : SelectCaller) (s : State) : Quiet s (blockHead z c s).2 := by
  unfold blockHead
  split
  · exact (enterSelect_quiet _ _ _).following rfl rfl rfl rfl
  · exact (tailHead_quiet _ _ _).following rfl rfl rfl rfl

theorem byteHead_quiet (s : State) : Quiet s (byteHead s).2 := by
  unfold byteHead
  split
  · exact (enterSelect_quiet _ _ _).following rfl rfl rfl rfl
  · exact finish_quiet s

theorem nextSlice_quiet (z : Word) (c : SelectCaller) (s : State) : Quiet s (nextSlice z c s).2 := by
  unfold nextSlice
  split
  · exact (blockHead_quiet _ _ _).following rfl rfl rfl rfl
  · exact (tailHead_quiet _ _ _).following rfl rfl rfl rfl

theorem startEerd_quiet (c : ReadCaller) (s : State) : Quiet s (startEerd c s).2 :=
  (blockHead_quiet _ _ _).following rfl rfl rfl rfl

theorem startEewr_quiet (c : WriteCaller) (s : State) : Quiet s (startEewr c s).2 :=
  (blockHead_quiet _ _ _).following rfl rfl rfl rfl

theorem startEerd1_quiet (s : State) : Quiet s (startEerd1 s).2 :=
  (byteHead_quiet _).following rfl rfl rfl rfl

theorem returnInit_quiet (c : InitCaller) (s : State) : Quiet s (returnInit c s).2 := by
  cases c
  · exact finish_quiet s
  · exact startEerd_quiet _ s
  · exact startEewr_quiet _ s

theorem returnBusw_quiet (c : BuswCaller) (s : State) : Quiet s (returnBusw c s).2 := by
  cases c
  · exact finish_quiet s
  · exact enterBusr_quiet _ _ _ s
  · exact goto_quiet _ s

theorem returnBusr_quiet (c : BusrCaller) (s : State) : Quiet s (returnBusr c s).2 := by
  rcases c with _ | r
  · exact finish_quiet s
  · cases r
    · exact nextSlice_quiet _ _ s
    · exact nextSlice_quiet _ _ s
    · exact (byteHead_quiet _).following rfl rfl rfl rfl

theorem buswHead_quiet (c : BuswCaller) (s : State) : Quiet s (buswHead c s).2 := by
  unfold buswHead
  split <;> exact (goto_quiet _ _).following rfl rfl rfl rfl

theorem busrHead_quiet (c : BusrCaller) (s : State) : Quiet s (busrHead c s).2 := by
  unfold busrHead
  split <;> exact (goto_quiet _ _).following rfl rfl rfl rfl

theorem start_quiet (i : Instr) (s : State) : Quiet s (start i s).2 := by
  cases i
  · exact goto_quiet _ s
  · exact goto_quiet _ s
  · exact goto_quiet _ s
  · exact goto_quiet _ s
  · exact enterBusw_quiet _ _ _ _ s
  · exact enterBusr_quiet _ _ _ s
  · exact startEerd_quiet _ s
  · exact startEerd1_quiet s
  · exact startEewr_quiet _ s

theorem dispatch_quiet (s : State) : Quiet s (dispatch s).2 := by
  unfold dispatch
  split
  · exact start_quiet _ s
  · exact finish_quiet s

/-- After one STATUS sample of a poll: a hit, the last miss, or another sample (R102, R103). -/
theorem afterSample_cases (test : Word → Bool) (bound : Nat) (hit out again : State → Walk) (s : State) :
    (test s.work.v = true ∧ afterSample test bound hit out again s = hit s) ∨
    (test s.work.v = false ∧ (s.work.j + 1#32).toNat = bound ∧
      afterSample test bound hit out again s = out (s.setJ (s.work.j + 1#32))) ∨
    (test s.work.v = false ∧ (s.work.j + 1#32).toNat ≠ bound ∧
      afterSample test bound hit out again s = again (s.setJ (s.work.j + 1#32))) := by
  unfold afterSample
  by_cases ht : test s.work.v = true
  · exact .inl ⟨ht, if_pos ht⟩
  · have hf : test s.work.v = false := Bool.eq_false_iff.2 ht
    by_cases hj : (s.work.j + 1#32).toNat = bound
    · exact .inr (.inl ⟨hf, hj, (if_neg ht).trans (if_pos hj)⟩)
    · exact .inr (.inr ⟨hf, hj, (if_neg ht).trans (if_neg hj)⟩)

/-! ### What an event, and the way from one event to the next, can change -/

/-- From one event to the next only loop registers, BUF and the ghost record are written. -/
structure Onward (s t : State) : Prop where
  eq : t = ((s.withWork t.work).withBuf t.buf).withTimeouts t.timeouts
  op : t.work.op = s.work.op
  addr : t.work.addr = s.work.addr
  len : t.work.len = s.work.len

theorem Quiet.onward {s t : State} (h : Quiet s t) : Onward s t := by
  refine ⟨?_, h.op, h.addr, h.len⟩
  obtain ⟨cfg, work, run, buf, shadow, rstctrl, env, host, trace, timeouts⟩ := t
  obtain ⟨h1, h2, h3, h4, h5, h6, h7, h8, h9⟩ := h
  subst h1 h2 h3 h4 h5 h6 h7 h8 h9
  rfl

/-- A loop register, BUF or the ghost record was written first. -/
theorem Onward.following {s s' t : State} (g : Onward s' t) (h : Onward s s') : Onward s t := by
  refine ⟨?_, g.op.trans h.op, g.addr.trans h.addr, g.len.trans h.len⟩
  rw [g.eq, h.eq]
  rfl

theorem afterSample_onward {test : Word → Bool} {bound : Nat} {hit out again : State → Walk} (s : State)
    (h1 : ∀ t, Onward t (hit t).2) (h2 : ∀ t, Onward t (out t).2) (h3 : ∀ t, Onward t (again t).2) :
    Onward s (afterSample test bound hit out again s).2 := by
  rcases afterSample_cases test bound hit out again s with ⟨-, e⟩ | ⟨-, -, e⟩ | ⟨-, -, e⟩ <;> rw [e]
  · exact h1 s
  · exact (h2 _).following ⟨rfl, rfl, rfl, rfl⟩
  · exact (h3 _).following ⟨rfl, rfl, rfl, rfl⟩

theorem after_onward (u : Upc) (s : State) : Onward s (after u s).2 := by
  rcases u with ⟨c, l⟩ | c | ⟨c, l⟩ | ⟨c, l⟩ | c | _
  · cases l <;> first | exact (goto_quiet _ s).onward | exact (returnInit_quiet c s).onward
  · exact (enterTransaction_quiet c _ s).onward
  · cases l
    · exact (goto_quiet _ s).onward
    · exact (goto_quiet _ s).onward
    · exact (buswHead_quiet c _).onward.following ⟨rfl, rfl, rfl, rfl⟩
    · exact afterSample_onward s (fun t => (goto_quiet _ t).onward)
        (fun t => (buswHead_quiet c _).onward.following ⟨rfl, rfl, rfl, rfl⟩) (fun t => (goto_quiet _ t).onward)
    · exact (buswHead_quiet c _).onward.following ⟨rfl, rfl, rfl, rfl⟩
    · exact afterSample_onward s (fun t => (returnBusw_quiet c t).onward)
        (fun t => (returnBusw_quiet c _).onward.following ⟨rfl, rfl, rfl, rfl⟩) (fun t => (goto_quiet _ t).onward)
  · cases l
    · exact (goto_quiet _ s).onward
    · exact (busrHead_quiet c _).onward.following ⟨rfl, rfl, rfl, rfl⟩
    · exact afterSample_onward s (fun t => (goto_quiet _ t).onward)
        (fun t => (busrHead_quiet c _).onward.following ⟨rfl, rfl, rfl, rfl⟩) (fun t => (goto_quiet _ t).onward)
    · exact (busrHead_quiet c _).onward.following ⟨rfl, rfl, rfl, rfl⟩
    · exact afterSample_onward s (fun t => (returnBusr_quiet c t).onward)
        (fun t => (returnBusr_quiet c _).onward.following ⟨rfl, rfl, rfl, rfl⟩) (fun t => (goto_quiet _ t).onward)
  · exact (nextSlice_quiet _ _ s).onward
  · exact (finish_quiet s).onward

theorem pending_onward (last : Option Upc) (s : State) : Onward s (pending last s).2 := by
  cases last
  · exact (dispatch_quiet s).onward
  · exact after_onward _ s

@[simp] theorem pending_cfg (last : Option Upc) (s : State) : (pending last s).2.cfg = s.cfg := by
  rw [(pending_onward last s).eq]; rfl

@[simp] theorem event_cfg (u : Upc) (s : State) : (event u s).cfg = s.cfg := by
  rcases u with ⟨c, l⟩ | c | ⟨c, l⟩ | ⟨c, l⟩ | c | _
  · cases l <;> rfl
  · rfl
  · cases l <;> rfl
  · cases l <;> rfl
  · rfl
  · rfl

/-- An event appends itself to the TRACE and has its effect on the shadows, RSTCTRL, ENV and `V`; the loop registers,
BUF and the ghost record wait for the step that follows (R25). -/
theorem event_spec (u : Upc) (s : State) :
    ∃ e v c r env, u.label.Emits e ∧
      event u s =
        { s with
          work := { s.work with v := v }
          shadow := c
          rstctrl := r
          env := env
          trace := s.trace ++ [e] } := by
  rcases u with ⟨c, l⟩ | c | ⟨c, l⟩ | ⟨c, l⟩ | c | _
  · cases l <;> exact ⟨_, _, _, _, _, by trivial, rfl⟩
  · exact ⟨_, _, _, _, _, by trivial, rfl⟩
  · cases l <;> exact ⟨_, _, _, _, _, by trivial, rfl⟩
  · cases l <;> exact ⟨_, _, _, _, _, by trivial, rfl⟩
  · exact ⟨_, _, _, _, _, by trivial, rfl⟩
  · exact ⟨_, _, _, _, _, by trivial, rfl⟩

/-- An event does not look at `RUN`. -/
theorem event_withRun (u : Upc) (s : State) (r : Run) : event u (s.withRun r) = (event u s).withRun r := by
  rcases u with ⟨c, l⟩ | c | ⟨c, l⟩ | ⟨c, l⟩ | c | _
  · cases l <;> rfl
  · rfl
  · cases l <;> rfl
  · cases l <;> rfl
  · rfl
  · rfl

/-! ### The updates between two events do not look at `RUN` -/

/-- `f` goes the same way whatever `RUN` holds, and leaves it. -/
def RunBlind (f : State → Walk) : Prop := ∀ s r, f (s.withRun r) = ((f s).1, (f s).2.withRun r)

theorem runBlind_goto (u : Upc) : RunBlind (goto u) := fun _ _ => rfl

theorem runBlind_finish : RunBlind finish := fun _ _ => rfl

theorem runBlind_enterTransaction (c : SelectCaller) (n : Word) : RunBlind (enterTransaction c n) := by
  intro s r
  cases c <;> rfl

theorem runBlind_enterSelect (c : SelectCaller) (n : Word) : RunBlind (enterSelect c n) := by
  intro s r
  unfold enterSelect
  by_cases h : s.cfg.addrBytes = 1
  · simp only [State.withRun_cfg, h, if_true]; rfl
  · simp only [State.withRun_cfg, h, if_false]; exact runBlind_enterTransaction c n s r

theorem runBlind_tailHead (z : Word) (c : SelectCaller) : RunBlind (tailHead z c) := by
  intro s r
  unfold tailHead
  by_cases h : s.work.k < s.work.rem
  · simp only [State.withRun_work, h, if_true]; exact runBlind_enterSelect c _ (sliceOfTail z s) r
  · simp only [State.withRun_work, h, if_false]; rfl

theorem runBlind_blockHead (z : Word) (c : SelectCaller) : RunBlind (blockHead z c) := by
  intro s r
  unfold blockHead
  by_cases h : s.work.b < s.work.nblk
  · simp only [State.withRun_work, h, if_true]; exact runBlind_enterSelect c _ (sliceOfBlock z s) r
  · simp only [State.withRun_work, h, if_false]; exact runBlind_tailHead z c (s.setK 0) r

theorem runBlind_byteHead : RunBlind byteHead := by
  intro s r
  unfold byteHead
  by_cases h : s.work.k < s.work.len
  · simp only [State.withRun_work, h, if_true]; exact runBlind_enterSelect _ _ (sliceOfByte s) r
  · simp only [State.withRun_work, h, if_false]; rfl

theorem runBlind_nextSlice (z : Word) (c : SelectCaller) : RunBlind (nextSlice z c) := by
  intro s r
  unfold nextSlice
  by_cases h : s.work.b < s.work.nblk
  · simp only [State.withRun_work, h, if_true]; exact runBlind_blockHead z c (s.setB _) r
  · simp only [State.withRun_work, h, if_false]; exact runBlind_tailHead z c (s.setK _) r

theorem runBlind_startEerd (c : ReadCaller) : RunBlind (startEerd c) := fun s r =>
  runBlind_blockHead _ _ ((splitLength Config.rdBlock s).setB 0#32) r

theorem runBlind_startEewr (c : WriteCaller) : RunBlind (startEewr c) := fun s r =>
  runBlind_blockHead _ _ ((splitLength Config.wrBlock s).setB 0#32) r

theorem runBlind_startEerd1 : RunBlind startEerd1 := fun s r => runBlind_byteHead (s.setK 0#32) r

theorem runBlind_returnInit (c : InitCaller) : RunBlind (returnInit c) := by
  cases c
  · exact runBlind_finish
  · exact runBlind_startEerd _
  · exact runBlind_startEewr _

theorem runBlind_returnBusw (c : BuswCaller) : RunBlind (returnBusw c) := by
  intro s r
  rcases c with _ | c | _
  · rfl
  · cases c <;> rfl
  · rfl

theorem runBlind_returnBusr (c : BusrCaller) : RunBlind (returnBusr c) := by
  intro s r
  rcases c with _ | c
  · rfl
  · cases c
    · exact runBlind_nextSlice _ _ s r
    · exact runBlind_nextSlice _ _ s r
    · exact runBlind_byteHead (s.setK _) r

theorem runBlind_buswHead (c : BuswCaller) : RunBlind (buswHead c) := by
  intro s r
  unfold buswHead
  by_cases h : s.work.i < s.work.tot - 1#32 <;> simp only [State.withRun_work, h, if_true, if_false] <;> rfl

theorem runBlind_busrHead (c : BusrCaller) : RunBlind (busrHead c) := by
  intro s r
  unfold busrHead
  by_cases h : s.work.i < s.work.tn <;> simp only [State.withRun_work, h, if_true, if_false] <;> rfl

theorem runBlind_afterSample {test : Word → Bool} {bound : Nat} {hit out again : State → Walk} (h1 : RunBlind hit)
    (h2 : RunBlind out) (h3 : RunBlind again) : RunBlind (afterSample test bound hit out again) := by
  intro s r
  unfold afterSample
  by_cases ht : test s.work.v = true
  · simp only [State.withRun_work, ht, if_true]; exact h1 s r
  · simp only [State.withRun_work, ht]
    by_cases hj : (s.work.j + 1#32).toNat = bound
    · simp only [State.setJ, State.withRun_work, State.withWork_work, hj, if_true]
      exact h2 (s.setJ (s.work.j + 1#32)) r
    · simp only [State.setJ, State.withRun_work, State.withWork_work, hj, if_false]
      exact h3 (s.setJ (s.work.j + 1#32)) r

theorem runBlind_afterInit (c : InitCaller) (l : InitLabel) : RunBlind (afterInit c l) := by
  cases l <;> first | exact runBlind_goto _ | exact runBlind_returnInit c

theorem runBlind_afterBusw (c : BuswCaller) (l : BuswLabel) : RunBlind (afterBusw c l) := by
  intro s r
  cases l
  · rfl
  · rfl
  · exact runBlind_buswHead c (s.setI 0#32) r
  · exact runBlind_afterSample (out := fun t => buswHead c ((t.noteTimeout (.tx t.work.i)).setI (t.work.i + 1#32)))
      (runBlind_goto _)
      (fun t r => runBlind_buswHead c ((t.noteTimeout (.tx t.work.i)).setI (t.work.i + 1#32)) r)
      (runBlind_goto _) s r
  · exact runBlind_buswHead c (s.setI (s.work.i + 1#32)) r
  · exact runBlind_afterSample (out := fun t => returnBusw c (t.noteTimeout .busyW)) (runBlind_returnBusw c)
      (fun t r => runBlind_returnBusw c (t.noteTimeout .busyW) r) (runBlind_goto _) s r

theorem runBlind_afterBusr (c : BusrCaller) (l : BusrLabel) : RunBlind (afterBusr c l) := by
  intro s r
  cases l
  · rfl
  · exact runBlind_busrHead c (s.setI 0#32) r
  · exact runBlind_afterSample (out := fun t => busrHead c ((t.noteTimeout (.rx t.work.i)).setI (t.work.i + 1#32)))
      (runBlind_goto _)
      (fun t r => runBlind_busrHead c ((t.noteTimeout (.rx t.work.i)).setI (t.work.i + 1#32)) r)
      (runBlind_goto _) s r
  · exact runBlind_busrHead c ((s.bufStore (s.work.bo + s.work.i).toNat s.work.v.lowByte).setI (s.work.i + 1#32)) r
  · exact runBlind_afterSample (out := fun t => returnBusr c (t.noteTimeout .busyR)) (runBlind_returnBusr c)
      (fun t r => runBlind_returnBusr c (t.noteTimeout .busyR) r) (runBlind_goto _) s r

theorem runBlind_after (u : Upc) : RunBlind (after u) := by
  rcases u with ⟨c, l⟩ | c | ⟨c, l⟩ | ⟨c, l⟩ | c | _
  · exact runBlind_afterInit c l
  · exact fun s r => runBlind_enterTransaction c (payloadOf Config.wrBlock s) s r
  · exact runBlind_afterBusw c l
  · exact runBlind_afterBusr c l
  · exact runBlind_nextSlice _ _
  · exact runBlind_finish

theorem runBlind_start (i : Instr) : RunBlind (start i) := by
  cases i
  · exact runBlind_goto _
  · exact runBlind_goto _
  · exact runBlind_goto _
  · exact runBlind_goto _
  · exact fun _ _ => rfl
  · exact fun _ _ => rfl
  · exact runBlind_startEerd _
  · exact runBlind_startEerd1
  · exact runBlind_startEewr _

theorem runBlind_dispatch : RunBlind dispatch := by
  intro s r
  unfold dispatch
  cases h : commandOf s.work.op s.work.addr s.work.len with
  | none => simp only [State.withRun_work, h]; rfl
  | some i => simp only [State.withRun_work, h]; exact runBlind_start i s r

theorem runBlind_pending (last : Option Upc) : RunBlind (pending last) := by
  cases last
  · exact runBlind_dispatch
  · exact runBlind_after _

/-! ### The end of a step -/

/-- The operands are latched, so dispatch finds the command again. -/
theorem dispatch_latch (i : Instr) (s : State) : dispatch (latch i s) = start i (latch i s) := by
  cases i <;> rfl

/-- A step that does not end its command leaves the updates for the next one. -/
theorem proceed_busy {last : Option Upc} {s : State} {u : Upc} (h : (pending last s).1 = some u) :
    proceed last s = s.withRun (.busy u last) ∧
      pending last (proceed last s) = (some u, (pending last s).2.withRun (.busy u last)) := by
  have e : proceed last s = s.withRun (.busy u last) := by
    unfold proceed
    split
    · next h1 => rw [h1] at h; cases h; rfl
    · next h1 => rw [h1] at h; cases h
  refine ⟨e, ?_⟩
  rw [e, runBlind_pending last s, h]

/-- A step that ends its command makes the updates after its event as well. -/
theorem proceed_idle {last : Option Upc} {s : State} (h : (pending last s).1 = none) :
    proceed last s = (pending last s).2.withRun .idle := by
  unfold proceed
  split
  · next h1 => rw [h1] at h; cases h
  · next h1 => rw [h1]

end Sys2Proof.Machine
end

