-- ==== Sys2Proof/Laws/PerInstr.lean ====
section
/-! SUPPORT. Per command: the shape of its spelling (30_encoding.md rules R73 and R74), one lemma per constructor. -/

namespace Sys2Proof.Laws.EncodeShape

/-- The command's spelling is three words: `OPC` zero-extended, so that `ZERO` is 0, then the operand words as they
stand; the decoder's fields read them back. -/
def Statement (i : Instr) : Prop :=
  ∃ cw0, encode i = [cw0, i.address, i.length] ∧ zeroField cw0 = 0#24 ∧ opcodeField cw0 = i.opcode ∧
    commandOf i.opcode i.address i.length = some i

theorem init (a n : Word) : Statement (.init a n) := ⟨0x00000000#32, rfl, by decide, rfl, rfl⟩
theorem read (a n : Word) : Statement (.read a n) := ⟨0x00000001#32, rfl, by decide, rfl, rfl⟩
theorem write (a n : Word) : Statement (.write a n) := ⟨0x00000002#32, rfl, by decide, rfl, rfl⟩
theorem dump (a n : Word) : Statement (.dump a n) := ⟨0x00000003#32, rfl, by decide, rfl, rfl⟩
theorem busw (a n : Word) : Statement (.busw a n) := ⟨0x00000010#32, rfl, by decide, rfl, rfl⟩
theorem busr (a n : Word) : Statement (.busr a n) := ⟨0x00000011#32, rfl, by decide, rfl, rfl⟩
theorem eerd (a n : Word) : Statement (.eerd a n) := ⟨0x00000020#32, rfl, by decide, rfl, rfl⟩
theorem eerd1 (a n : Word) : Statement (.eerd1 a n) := ⟨0x00000021#32, rfl, by decide, rfl, rfl⟩
theorem eewr (a n : Word) : Statement (.eewr a n) := ⟨0x00000022#32, rfl, by decide, rfl, rfl⟩

end Sys2Proof.Laws.EncodeShape
end

