-- ==== Sys2Proof/Laws/Step.lean ====
section
/-! SUPPORT. Everything a step can do. -/

namespace Sys2Proof.Machine

/-- A step that answers a next state: a micro-step of a running command, or, while `IDLE`, nothing, a fill of BUF, or
a whole command. -/
theorem step_cases {s t : State} (h : step s = .next t) :
    s.cfg.Valid ∧
    ((∃ u last, s.run = .busy u last ∧ t = microStep u last s) ∨
     (s.run = .idle ∧ s.host = [] ∧ t = s) ∨
     (s.run = .idle ∧ ∃ bytes rest, s.host = .fill bytes :: rest ∧ bytes.length ≤ s.cfg.bufSize ∧
        t = (s.withHost rest).withBuf (Memory.writeList s.buf 0 bytes)) ∨
     (s.run = .idle ∧ ∃ c rest i, s.host = .present c :: rest ∧ decode c.words = .ok i ∧
        exec i (s.withHost rest) = .next t)) := by
  unfold step at h
  by_cases hv : s.cfg.Valid
  · rw [if_pos hv] at h
    refine ⟨hv, ?_⟩
    cases hr : s.run with
    | busy u last =>
      rw [hr] at h
      cases h
      exact .inl ⟨u, last, rfl, rfl⟩
    | idle =>
      rw [hr] at h
      simp only [idleStep] at h
      split at h
      · next hh => cases h; exact .inr (.inl ⟨rfl, hh, rfl⟩)
      · next bytes rest hh =>
        unfold fillBuf at h
        split at h
        · next hl => cases h; exact .inr (.inr (.inl ⟨rfl, bytes, rest, hh, hl, rfl⟩))
        · cases h
      · next c rest hh =>
        unfold presentCommand at h
        split at h
        · next i hd => exact .inr (.inr (.inr ⟨rfl, c, rest, i, hh, hd, h⟩))
        · cases h
  · rw [if_neg hv] at h; cases h

/-- A step while `BUSY` is the micro-step of `upc`. -/
theorem step_busy {s : State} {u : Upc} {last : Option Upc} (hv : s.cfg.Valid) (hr : s.run = .busy u last) :
    step s = .next (microStep u last s) := by
  simp only [step, if_pos hv, hr]

/-- A step while `IDLE` is HOST's move. -/
theorem step_idle {s : State} (hv : s.cfg.Valid) (hr : s.run = .idle) : step s = idleStep s := by
  simp only [step, if_pos hv, hr]

end Sys2Proof.Machine
end

