-- ==== Sys2Proof/Laws/Refine.lean ====
section
/-! SUPPORT. The pseudocode as a walk from event to event, which the machine's steps follow; a poll, BUSW, BUSR and one
slice of the MAPPER as such walks, each from its entry to what follows it. -/

namespace Sys2Proof.Machine

/-- One event, and the way to the next one. -/
def Micro (p q : Walk) : Prop := ∃ u, p.1 = some u ∧ q = after u (event u p.2)

/-- Any number of events. -/
abbrev Steps := Relation.ReflTransGen Micro

/-- The steps of the machine follow the walk of the pseudocode: it reaches the same end, and is `BUSY` until then
(R25). -/
theorem run_of_steps {p : Walk} {t : State} (h : Steps p (none, t)) :
    ∀ (last : Option Upc) (s : State) (r : Run), s.cfg.Valid → pending last s = (p.1, p.2.withRun r) →
      ∃ k, Sys2Proof.core.run k (proceed last s) = .next (t.withRun .idle) ∧
        ∀ j, j < k → ∃ m u l, Sys2Proof.core.run j (proceed last s) = .next m ∧ m.run = .busy u l := by
  induction h using Relation.ReflTransGen.head_induction_on with
  | refl =>
    intro last s r _ hp
    refine ⟨0, ?_, fun j hj => absurd hj (Nat.not_lt_zero j)⟩
    rw [proceed_idle (by rw [hp]), hp]
    rfl
  | @head p q hpq _ ih =>
    intro last s r hv hp
    obtain ⟨u, hu, rfl⟩ := hpq
    have hpu : (pending last s).1 = some u := by rw [hp]; exact hu
    obtain ⟨e, e2⟩ := proceed_busy hpu
    have hc : p.2.cfg = s.cfg := by
      have h1 := pending_cfg last s
      rw [hp] at h1
      exact h1
    have hstep : step (proceed last s) =
        .next (proceed (some u) ((event u p.2).withRun (.busy u last))) := by
      have hrun : (proceed last s).run = .busy u last := by rw [e]; rfl
      have hval : (proceed last s).cfg.Valid := by rw [e]; exact hv
      rw [step_busy hval hrun, microStep, e2, ← event_withRun]
      show Host.Outcome.next (proceed (some u) (event u ((pending last s).2.withRun _))) = _
      rw [hp]
      rfl
    obtain ⟨k, hk, hj⟩ := ih (some u) ((event u p.2).withRun (.busy u last)) (.busy u last)
      (by rw [State.withRun_cfg, event_cfg, hc]; exact hv) (runBlind_after u (event u p.2) _)
    have hrun : ∀ n, Sys2Proof.core.run (n + 1) (proceed last s) =
        Sys2Proof.core.run n (proceed (some u) ((event u p.2).withRun (.busy u last))) := by
      intro n
      have hs : Sys2Proof.core.step (proceed last s) =
          .next (proceed (some u) ((event u p.2).withRun (.busy u last))) := hstep
      simp only [Host.Core.run, hs]
    refine ⟨k + 1, by rw [hrun]; exact hk, ?_⟩
    intro j hj1
    cases j with
    | zero => exact ⟨_, u, last, rfl, by rw [e]; rfl⟩
    | succ j => rw [hrun]; exact hj j (by omega)

/-- The divider is in its range (R9). -/
def DividerOk (c : Config) : Prop := 1 ≤ c.clkdiv ∧ c.clkdiv ≤ 0xFFFF

theorem DividerOk.maxBusyLoop {c : Config} (h : DividerOk c) : 0 < c.maxBusyLoop ∧ c.maxBusyLoop < 2 ^ 32 := by
  unfold DividerOk at h
  unfold Config.maxBusyLoop
  omega

theorem DividerOk.busyLoop {c : Config} (h : DividerOk c) : 0 < c.busyLoop ∧ c.busyLoop < 2 ^ 32 := by
  unfold DividerOk at h
  unfold Config.busyLoop
  omega

/-- The samples of a poll, where `u` is the statement that takes one. -/
theorem pollLoop_steps {u : Upc} {test : Word → Bool} {bound : Nat} {hit out : State → Walk} {c : Config}
    (hu : ∀ s : State, s.cfg = c →
      after u (event u s) = afterSample test bound hit out (goto u) (busRead .status s))
    (hb : bound < 2 ^ 32) (n : Nat) (s : State) (hs : s.cfg = c) (hn : 0 < n) (hj : s.work.j.toNat + n = bound) :
    Steps (goto u s) (if (pollLoop test n s).1 then hit (pollLoop test n s).2 else out (pollLoop test n s).2) := by
  induction n generalizing s with
  | zero => omega
  | succ n ih =>
    have h1 : Micro (goto u s) (afterSample test bound hit out (goto u) (busRead .status s)) :=
      ⟨u, rfl, (hu s hs).symm⟩
    have hjj : (s.work.j + 1#32).toNat = s.work.j.toNat + 1 := by bv_omega
    rw [pollLoop]
    rcases afterSample_cases test bound hit out (goto u) (busRead .status s) with ⟨ht, e⟩ | ⟨ht, hx, e⟩ | ⟨ht, hx, e⟩
    · simp only [ht, if_true]
      rw [e] at h1
      exact .single h1
    · have hx' : (s.work.j + 1#32).toNat = bound := hx
      have hn0 : n = 0 := by omega
      subst hn0
      simp only [ht, pollLoop]
      rw [e] at h1
      exact .single h1
    · have hx' : (s.work.j + 1#32).toNat ≠ bound := hx
      simp only [ht]
      rw [e] at h1
      exact .head h1 (ih ((busRead .status s).setJ (s.work.j + 1#32)) hs (by omega)
        (by show (s.work.j + 1#32).toNat + n = bound; omega))

/-- A whole poll. -/
theorem poll_steps {u : Upc} {test : Word → Bool} {bound : Nat} {hit out : State → Walk} {c : Config}
    (hu : ∀ s : State, s.cfg = c →
      after u (event u s) = afterSample test bound hit out (goto u) (busRead .status s))
    (hb : 0 < bound ∧ bound < 2 ^ 32) (s : State) (hs : s.cfg = c) :
    Steps (goto u (s.setJ 0#32))
      (if (poll test bound s).1 then hit (poll test bound s).2 else out (poll test bound s).2) :=
  pollLoop_steps hu hb.2 bound (s.setJ 0#32) hs hb.1 (by simp)

/-- BUSW's `WaitIdle`. -/
theorem waitIdleW_steps (c : BuswCaller) (s : State) (hc : DividerOk s.cfg) :
    Steps (goto (.busw c .w6) (s.setJ 0#32)) (returnBusw c (waitIdle .busyW s)) := by
  have h := poll_steps (u := .busw c .w6) (test := statusIdle) (bound := s.cfg.busyLoop) (hit := returnBusw c)
    (out := fun t => returnBusw c (t.noteTimeout .busyW)) (fun t ht => by rw [← ht]; rfl) hc.busyLoop s rfl
  unfold waitIdle
  split at h <;> simp_all

/-- BUSR's `WaitIdle`. -/
theorem waitIdleR_steps (c : BusrCaller) (s : State) (hc : DividerOk s.cfg) :
    Steps (goto (.busr c .r5) (s.setJ 0#32)) (returnBusr c (waitIdle .busyR s)) := by
  have h := poll_steps (u := .busr c .r5) (test := statusIdle) (bound := s.cfg.busyLoop) (hit := returnBusr c)
    (out := fun t => returnBusr c (t.noteTimeout .busyR)) (fun t ht => by rw [← ht]; rfl) hc.busyLoop s rfl
  unfold waitIdle
  split at h <;> simp_all

/-- One byte position of BUSW. -/
theorem buswPosition_steps (c : BuswCaller) (s : State) (hc : DividerOk s.cfg) :
    Steps (goto (.busw c .w4) (s.setJ 0#32)) (buswHead c (buswPosition s)) := by
  have h := poll_steps (u := .busw c .w4) (test := statusTxEmpty) (bound := s.cfg.maxBusyLoop)
    (hit := goto (.busw c .w5))
    (out := fun t => buswHead c ((t.noteTimeout (.tx t.work.i)).setI (t.work.i + 1#32))) (fun t ht => by rw [← ht]; rfl) hc.maxBusyLoop s rfl
  unfold buswPosition pollSet
  by_cases hp : (poll statusTxEmpty s.cfg.maxBusyLoop s).1 = true
  · simp only [hp, if_true] at h ⊢
    generalize (poll statusTxEmpty s.cfg.maxBusyLoop s).2 = p at h ⊢
    exact h.tail ⟨.busw c .w5, rfl, rfl⟩
  · simp only [hp] at h ⊢
    exact h

/-- One byte position of BUSR. -/
theorem busrPosition_steps (c : BusrCaller) (s : State) (hc : DividerOk s.cfg) :
    Steps (goto (.busr c .r3) (s.setJ 0#32)) (busrHead c (busrPosition s)) := by
  have h := poll_steps (u := .busr c .r3) (test := statusDataReady) (bound := s.cfg.maxBusyLoop)
    (hit := goto (.busr c .r4))
    (out := fun t => busrHead c ((t.noteTimeout (.rx t.work.i)).setI (t.work.i + 1#32))) (fun t ht => by rw [← ht]; rfl) hc.maxBusyLoop s rfl
  unfold busrPosition pollSet
  by_cases hp : (poll statusDataReady s.cfg.maxBusyLoop s).1 = true
  · simp only [hp, if_true] at h ⊢
    generalize (poll statusDataReady s.cfg.maxBusyLoop s).2 = p at h ⊢
    exact h.tail ⟨.busr c .r4, rfl, rfl⟩
  · simp only [hp] at h ⊢
    exact h

/-- BUSW's byte loop and `WaitIdle`. -/
theorem buswLoop_steps (c : BuswCaller) (n : Nat) (s : State) (hc : DividerOk s.cfg)
    (hn : s.work.i.toNat + n = (s.work.tot - 1#32).toNat) :
    Steps (buswHead c s) (returnBusw c (waitIdle .busyW (buswLoop n s))) := by
  induction n generalizing s with
  | zero =>
    unfold buswHead
    rw [if_neg (by rw [BitVec.lt_def]; omega)]
    exact waitIdleW_steps c s hc
  | succ n ih =>
    unfold buswHead
    rw [if_pos (by rw [BitVec.lt_def]; omega)]
    refine (buswPosition_steps c s hc).trans ?_
    obtain ⟨vs, j, v, e, d, evs, ts, h, -⟩ := buswPosition_spec s
    rw [buswLoop]
    apply ih
    · rw [h]; exact hc
    · rw [h]; simp only [sent]; bv_omega

/-- BUSR's byte loop and `WaitIdle`. -/
theorem busrLoop_steps (c : BusrCaller) (n : Nat) (s : State) (hc : DividerOk s.cfg)
    (hn : s.work.i.toNat + n = s.work.tn.toNat) :
    Steps (busrHead c s) (returnBusr c (waitIdle .busyR (busrLoop n s))) := by
  induction n generalizing s with
  | zero =>
    unfold busrHead
    rw [if_neg (by rw [BitVec.lt_def]; omega)]
    exact waitIdleR_steps c s hc
  | succ n ih =>
    unfold busrHead
    rw [if_pos (by rw [BitVec.lt_def]; omega)]
    refine (busrPosition_steps c s hc).trans ?_
    obtain ⟨vs, j, v, e, d, evs, ts, h, -⟩ := busrPosition_spec s
    rw [busrLoop]
    apply ih
    · rw [h]; exact hc
    · rw [h]; simp only [received]; bv_omega

/-- A whole BUSW, from its entry to its return. -/
theorem busw_steps (c : BuswCaller) (ta bo tn : Word) (s : State) (hc : DividerOk s.cfg) :
    Steps (enterBusw c ta bo tn s) (returnBusw c (busw ta bo tn s)) := by
  refine .head ⟨_, rfl, rfl⟩ (.head ⟨_, rfl, rfl⟩ (.head ⟨_, rfl, rfl⟩ ?_))
  have h := buswLoop_steps c ((buswStart (s.setBusw ta bo tn)).work.tot - 1#32).toNat
    (buswStart (s.setBusw ta bo tn)) hc (by simp [buswStart])
  refine Eq.mp ?_ h
  congr 1

/-- A whole BUSR, from its entry to its return. -/
theorem busr_steps (c : BusrCaller) (bo tn : Word) (s : State) (hc : DividerOk s.cfg) :
    Steps (enterBusr c bo tn s) (returnBusr c (busr bo tn s)) := by
  refine .head ⟨_, rfl, rfl⟩ (.head ⟨_, rfl, rfl⟩ ?_)
  have h := busrLoop_steps c ((busrStart (s.setBusr bo tn)).work.tn).toNat (busrStart (s.setBusr bo tn)) hc
    (by simp [busrStart])
  refine Eq.mp ?_ h
  congr 1

/-! ### One slice of the MAPPER -/

/-- The payload the micro-steps will find in the loop registers is `n`. -/
def PayloadIs (c : SelectCaller) (n : Word) (s : State) : Prop :=
  match c with
  | .reading r => readPayload r s = n
  | .writing _ => payloadOf Config.wrBlock s = n

theorem payloadOf_congr {z : Word} {s t : State} (h1 : t.work.b = s.work.b) (h2 : t.work.nblk = s.work.nblk) :
    payloadOf z t = payloadOf z s := by
  simp [payloadOf, h1, h2]

theorem readPayload_congr {r : ReadCaller} {s t : State} (h1 : t.work.b = s.work.b)
    (h2 : t.work.nblk = s.work.nblk) : readPayload r t = readPayload r s := by
  cases r <;> simp [readPayload, payloadOf, h1, h2]

theorem PayloadIs.congr {c : SelectCaller} {n : Word} {s t : State} (h : PayloadIs c n s)
    (h1 : t.work.b = s.work.b) (h2 : t.work.nblk = s.work.nblk) : PayloadIs c n t := by
  cases c
  · exact (readPayload_congr h1 h2).trans h
  · exact (payloadOf_congr h1 h2).trans h

/-- `ReadAt` or `WriteAt`. -/
def sliceBody (c : SelectCaller) (n : Word) (s : State) : State :=
  match c with
  | .reading _ => readAt n s
  | .writing _ => writeAt n s

/-- The bookkeeping after a whole `ReadAt` or `WriteAt`. -/
def afterSlice (c : SelectCaller) (s : State) : Walk :=
  match c with
  | .reading r => returnBusr (.reading r) s
  | .writing _ => nextSlice Config.wrBlock c s

/-- The transactions of a slice, after its page select. -/
theorem transaction_steps (c : SelectCaller) (n : Word) (s : State) (hc : DividerOk s.cfg) (hn : PayloadIs c n s) :
    Steps (enterTransaction c n s)
      (afterSlice c
        (match c with
         | .reading _ => busr s.work.bo n (busw s.work.a s.work.bo 0#32 s)
         | .writing _ => delay Config.tWriteCycle (busw s.work.a s.work.bo n s))) := by
  cases c with
  | reading r =>
    refine (busw_steps (.reading r) _ _ _ s hc).trans ?_
    have k := busw_kept s.work.a s.work.bo 0#32 s
    have e : returnBusw (.reading r) (busw s.work.a s.work.bo 0#32 s) =
        enterBusr (.reading r) s.work.bo n (busw s.work.a s.work.bo 0#32 s) := by
      have hp : readPayload r s = n := hn
      simp [returnBusw, (busw_leaves s.work.a s.work.bo 0#32 s).2.2.1, readPayload_congr k.b k.nblk, hp]
    rw [e]
    exact busr_steps (.reading r) s.work.bo n _ (by rw [k.cfg]; exact hc)
  | writing w =>
    refine (busw_steps (.writing w) _ _ _ s hc).trans ?_
    exact .single ⟨.writeDelay w, rfl, rfl⟩

/-- A whole slice: page select, transactions, delay. -/
theorem slice_steps (c : SelectCaller) (n : Word) (s : State) (hc : DividerOk s.cfg) (hn : PayloadIs c n s) :
    Steps (enterSelect c n s) (afterSlice c (sliceBody c n s)) := by
  have hk := pageSelect_kept s.work.a s
  have hl := pageSelect_leaves s.work.a s
  have h := transaction_steps c n (pageSelect s.work.a s) (by rw [hk.cfg]; exact hc) (hn.congr hk.b hk.nblk)
  have h2 : Steps (enterSelect c n s) (enterTransaction c n (pageSelect s.work.a s)) := by
    unfold enterSelect pageSelect
    by_cases ha : s.cfg.addrBytes = 1
    · simp only [ha, if_true]
      refine .single ⟨.select c, rfl, ?_⟩
      cases c with
      | reading r => rfl
      | writing w =>
        have : payloadOf Config.wrBlock s = n := hn
        rw [← this]
        rfl
    · simp only [ha, if_false]
      exact .refl
  refine h2.trans ?_
  rw [hl.2.1, hl.2.2] at h
  cases c <;> exact h

end Sys2Proof.Machine
end

