-- ==== Sys2Proof/Tests/Slice0.lean ====
section
/-! SUPPORT. Tests. The expected values come from the spec's vectors (95_test_vectors.md, named in each docstring) or are
written out from the rule named. Then, for every obligation with hypotheses, a concrete state and operands that meet
them. -/

namespace Sys2Proof.Tests

open Sys2Proof.Machine

/-! ### Decoding: the words of 95_test_vectors.md section 2.7 -/

theorem test_decode_driver :
    decode [0x00000000#32, 0x12345678#32, 0xFFFFFFFF#32] = .ok (.init 0x12345678#32 0xFFFFFFFF#32) ∧
    decode [0x00000001#32, 0x00000010#32, 0x00000001#32] = .ok (.read 0x10#32 1#32) ∧
    decode [0x00000002#32, 0x00000010#32, 0x00000002#32] = .ok (.write 0x10#32 2#32) ∧
    decode [0x00000003#32, 0x00000000#32, 0x00000000#32] = .ok (.dump 0#32 0#32) := by decide

theorem test_decode_engine :
    decode [0x00000010#32, 0x00001234#32, 0x00000000#32] = .ok (.busw 0x1234#32 0#32) ∧
    decode [0x00000011#32, 0x00000000#32, 0x00000004#32] = .ok (.busr 0#32 4#32) := by decide

theorem test_decode_mapper :
    decode [0x00000020#32, 0x00000120#32, 0x00000010#32] = .ok (.eerd 0x120#32 16#32) ∧
    decode [0x00000021#32, 0x000000FF#32, 0x00000002#32] = .ok (.eerd1 0xFF#32 2#32) ∧
    decode [0x00000022#32, 0x000002F8#32, 0x00000009#32] = .ok (.eewr 0x2F8#32 9#32) := by decide

theorem test_decode_refused :
    decode [0x00000004#32, 0#32, 0#32] = .error .reservedOpcode ∧
    decode [0x00000012#32, 0#32, 0#32] = .error .reservedOpcode ∧
    decode [0x00000023#32, 0#32, 0#32] = .error .reservedOpcode ∧
    decode [0x000000FF#32, 0#32, 0#32] = .error .reservedOpcode ∧
    decode [0x00000101#32, 0#32, 0#32] = .error .zeroField ∧
    decode [0x80000000#32, 0#32, 0#32] = .error .zeroField ∧
    decode [0x00000001#32, 0#32] = .error .notThreeWords := by decide

/-- The number laid out as the opcode table numbers its bits: `CW0` in bits 31..0, `CW1` above it, `CW2` above that. -/
theorem test_table_word :
    decodeTableWord 96 0x00000009000002F800000022 = some (.eewr 0x2F8#32 9#32) ∧
    decodeTableWord 32 0x00000021 = some (.eerd1 0#32 0#32) ∧ decodeTableWord 32 0x00000012 = none := by decide

/-- V10b, V23b and the last rows of section 2.7: the ill-formed operands, one for each check. -/
theorem test_wellFormed_smoke :
    Instr.wellFormed State.resetConfig (.write 0#32 3#32) = false ∧
    Instr.wellFormed State.resetConfig (.write 0#32 0#32) = false ∧
    Instr.wellFormed State.resetConfig (.busr 0#32 0#32) = false ∧
    Instr.wellFormed State.resetConfig (.busr 0#32 4097#32) = false ∧
    Instr.wellFormed State.resetConfig (.read 0#32 4097#32) = false ∧
    Instr.wellFormed State.resetConfig (.busw 0#32 4097#32) = false ∧
    Instr.wellFormed State.resetConfig (.eerd 0#32 4097#32) = false ∧
    Instr.wellFormed State.resetConfig (.eerd1 0#32 4097#32) = false ∧
    Instr.wellFormed State.resetConfig (.eewr 0#32 4097#32) = false ∧
    Instr.wellFormed State.resetConfig (.eewr 0#32 4096#32) = true ∧
    Instr.wellFormed State.resetConfig (.init 0#32 0xFFFFFFFF#32) = true := by decide

/-- R29: the fields of `CFG_DEFAULT`. -/
theorem test_cfg_default : Config.cfgDefault = (7#32 <<< 5) ||| (6#32 <<< 2) ||| (1#32 <<< 1) := by decide

/-! ### States for one step -/

/-- The controller's values after a pulse, all different. -/
def pulseValues : CtrlRegs := ⟨0xC0#32, 0xC1#32, 0xC2#32, 0xC3#32, 0xC4#32, 0xC5#32, 0xC6#32⟩

/-- One-byte addressing, `CLKDIV` = 1, so that `MAX_BUSY_LOOP` = 25 and `BUSY_LOOP` = 30 (section 2.5). -/
def cfg1 : Config :=
  { addrBytes := 1, board := .sim, clkdivSim := 1, timeUnit := 1, i2cBase := 0x900, rstctrlAddr := 0x34,
    rstMask := 0x00010000#32, bufSize := 48, ctrlReset := pulseValues }

/-- Two-byte addressing. -/
def cfg2 : Config := { cfg1 with addrBytes := 2 }

/-- The production divider. -/
def cfgProd : Config := { cfg1 with board := .prod }

/-- SEQ `IDLE` with a BUF, an ENV and moves of HOST. -/
def idleAt (c : Config) (e : Env) (b : List Byte) (h : List HostMove) : State :=
  { cfg := c, work := State.resetWork, run := .idle, buf := Memory.writeList [] 0 b, shadow := pulseValues,
    rstctrl := 0#32, env := e, host := h, trace := [], timeouts := [] }

/-- ENV_IDEAL at rest with an EEPROM array. -/
def rest (m : Memory) : Ideal :=
  { mode := .idle, cnt := 0#32, left := 0, hold := 0#8, rx := [], dev := 0#32, rst := 0#32, ptr := 0, mem := m }

/-- The TRACE a command leaves. -/
def traceOf (o : Outcome) : Option (List Event) :=
  match o with
  | .next t => some t.trace
  | .fault f => nomatch f
  | .refused _ => none

/-- The first `n` bytes of BUF a command leaves. -/
def bufOf (n : Nat) (o : Outcome) : Option (List Byte) :=
  match o with
  | .next t => some ((List.range n).map t.bufByte)
  | .fault f => nomatch f
  | .refused _ => none

/-- The EEPROM array a command leaves. -/
def cellsOf (o : Outcome) : Option Memory :=
  match o with
  | .next t => match t.env with
    | .ideal e => some e.mem
    | .oracle _ _ => none
  | .fault f => nomatch f
  | .refused _ => none

/-- The refusal a command or step answers. -/
def refusalOf (o : Outcome) : Option Refusal :=
  match o with
  | .next _ => none
  | .fault f => nomatch f
  | .refused r => some r

/-- The timeouts a command leaves on record. -/
def timeoutsOf (o : Outcome) : Option (List Timeout) :=
  match o with
  | .next t => some t.timeouts
  | .fault f => nomatch f
  | .refused _ => none

/-- The values written to DEVADDR, in order. -/
def devaddrs (es : List Event) : List Word :=
  es.filterMap fun e => match e with
    | .write .devaddr v => some v
    | _ => none

/-- The values written to BYTECNT, in order. -/
def bytecnts (es : List Event) : List Word :=
  es.filterMap fun e => match e with
    | .write .bytecnt v => some v
    | _ => none

/-- INIT7 of section 2.2, for the divider value `d`. -/
def init7 (d : Word) : List Event :=
  [.read .rstctrl 0x00000000#32, .write .rstctrl 0x00010000#32, .write .rstctrl 0x00000000#32, .delay 500,
   .write .config 0x000000FA#32, .write .clkdiv d, .write .devaddr 0x00000028#32]

/-- INIT7, then the events `es`. -/
def afterInit7 (d : Word) (es : List Event) : List Event := init7 d ++ es

/-! ### One step per test -/

/-- V1. -/
theorem test_init : traceOf (exec (.init 0#32 0#32) (idleAt cfgProd (.ideal (rest [])) [] [])) =
    some (init7 0x00000177#32) := by decide

/-- V2a, with the operands of V2b. -/
theorem test_init_keeps_other_bits :
    traceOf (exec (.init 0xFFFFFFFF#32 0xFFFFFFFF#32) (idleAt cfgProd (.oracle [0x00010004#32] 0) [] [])) =
      some [.read .rstctrl 0x00010004#32, .write .rstctrl 0x00010004#32, .write .rstctrl 0x00000004#32, .delay 500,
        .write .config 0x000000FA#32, .write .clkdiv 0x00000177#32, .write .devaddr 0x00000028#32] := by decide

/-- V4. -/
theorem test_read : traceOf (exec (.read 0x10#32 1#32) (idleAt cfg1 (.ideal (rest [(0x10, 0xAB#8)])) [0#8] [])) =
    some (afterInit7 1#32
      [.write .devaddr 0x28#32, .write .bytecnt 0#32, .write .dataout 0x10#32, .write .startxfr 0#32,
       .read .status 2#32, .write .bytecnt 0#32, .write .startxfr 1#32, .read .status 5#32, .read .datain 0xAB#32,
       .read .status 2#32]) := by decide

/-- P5: on a dead bus READ ends all the same and leaves BUF stale; 98 events. -/
theorem test_read_dead_bus :
    let o := exec (.read 0x10#32 1#32) (idleAt cfg1 (.oracle (0#32 :: List.replicate 85 1#32) 0) [0x77#8] [])
    bufOf 1 o = some [0x77#8] ∧ (traceOf o).map List.length = some 98 := by decide +kernel

/-- V3. -/
theorem test_write :
    let o := exec (.write 0x10#32 1#32) (idleAt cfg1 (.ideal (rest [])) [0xAB#8] [])
    traceOf o = some (afterInit7 1#32
      [.write .devaddr 0x28#32, .write .bytecnt 1#32, .write .dataout 0x10#32, .write .startxfr 0#32,
       .read .status 3#32, .write .dataout 0xAB#32, .read .status 2#32, .delay 5000]) ∧
    cellsOf o = some [(0x10, 0xAB#8)] := by decide

/-- V10: the two bytes of one WRITE fall in two pages. -/
theorem test_write_two_pages :
    let o := exec (.write 0xFF#32 2#32) (idleAt cfg1 (.ideal (rest [])) [0xA1#8, 0xA2#8] [])
    (traceOf o).map devaddrs = some [0x28#32, 0x28#32, 0x29#32] ∧
    cellsOf o = some [(0xFF, 0xA1#8), (0x100, 0xA2#8)] := by decide

/-- V31. -/
theorem test_dump : traceOf (exec (.dump 0xFFFFFFFF#32 0xFFFFFFFF#32) (idleAt cfg1 (.oracle [] 0) [] [])) =
    some [.report] := by decide

/-- V21: the dummy write sends the high address byte first. -/
theorem test_busw_two_byte : traceOf (exec (.busw 0x1234#32 0#32) (idleAt cfg2 (.ideal (rest [])) [] [])) =
    some [.write .bytecnt 1#32, .write .dataout 0x12#32, .write .startxfr 0#32, .read .status 3#32,
      .write .dataout 0x34#32, .read .status 2#32] := by decide

/-- V27: the byte is chosen by position; 0xA1 is skipped. -/
theorem test_busw_by_position :
    traceOf (exec (.busw 0x10#32 2#32)
      (idleAt cfg1 (.oracle (List.replicate 25 1#32 ++ [3#32, 2#32]) 0) [0xA1#8, 0xA2#8] [])) =
      some (.write .bytecnt 2#32 :: .write .dataout 0x10#32 :: .write .startxfr 0#32 ::
        (List.replicate 25 (.read .status 1#32)).append
          [.read .status 3#32, .write .dataout 0xA2#32, .read .status 2#32]) := by decide

/-- V23a: bits 31:8 of DATAIN are ignored. -/
theorem test_busr : bufOf 1 (exec (.busr 0#32 1#32)
    (idleAt cfg1 (.oracle [5#32, 0xFFFFFFAB#32, 2#32] 0) [0#8] [])) = some [0xAB#8] := by decide

/-- V26: after a timeout the byte that comes goes to the next position. -/
theorem test_busr_shift :
    let o := exec (.busr 0#32 2#32)
      (idleAt cfg1 (.oracle (List.replicate 25 1#32 ++ [5#32, 0x5A#32, 2#32]) 0) [0x11#8, 0x22#8] [])
    bufOf 2 o = some [0x11#8, 0x5A#8] ∧ (traceOf o).map List.length = some 30 := by decide

/-- V17: two blocks and a one-byte tail. -/
theorem test_eerd :
    let o := exec (.eerd 0x100#32 33#32) (idleAt cfg1 (.ideal (rest [])) [] [])
    (traceOf o).map bytecnts = some [0#32, 15#32, 0#32, 15#32, 0#32, 0#32] ∧
    (traceOf o).map devaddrs = some [0x29#32, 0x29#32, 0x29#32] ∧
    (traceOf o).map List.length = some 90 := by decide +kernel

/-- V15: below 16 bytes EERD is the byte-wise read. -/
theorem test_eerd_tail :
    let o := exec (.eerd 0xFF#32 2#32) (idleAt cfg1 (.ideal (rest [(0xFF, 0xFC#8), (0x100, 0x03#8)])) [] [])
    bufOf 2 o = some [0xFC#8, 0x03#8] ∧ (traceOf o).map devaddrs = some [0x28#32, 0x29#32] := by decide

/-- V15: the selector changes within the range. -/
theorem test_eerd1 :
    let o := exec (.eerd1 0xFF#32 2#32) (idleAt cfg1 (.ideal (rest [(0xFF, 0xFC#8), (0x100, 0x03#8)])) [] [])
    bufOf 2 o = some [0xFC#8, 0x03#8] ∧ (traceOf o).map devaddrs = some [0x28#32, 0x29#32] := by decide

/-- V13: with two-byte addressing no DEVADDR write; an 8-byte page, then a one-byte tail. -/
theorem test_eewr :
    let o := exec (.eewr 0x2F8#32 9#32) (idleAt cfg2 (.ideal (rest []))
      [0x11#8, 0x22#8, 0x33#8, 0x44#8, 0x55#8, 0x66#8, 0x77#8, 0x88#8, 0x99#8] [])
    (traceOf o).map devaddrs = some [] ∧
    (traceOf o).map dataoutWords =
      some [2#32, 0xF8#32, 0x11#32, 0x22#32, 0x33#32, 0x44#32, 0x55#32, 0x66#32, 0x77#32, 0x88#32,
        3#32, 0#32, 0x99#32] ∧ (traceOf o).map List.length = some 32 := by decide

/-- V14: an address past 0x7FF wraps. -/
theorem test_eewr_wraps :
    let o := exec (.eewr 0x7FE#32 4#32) (idleAt cfg1 (.ideal (rest [])) [1#8, 2#8, 3#8, 4#8] [])
    (traceOf o).map devaddrs = some [0x2F#32, 0x2F#32, 0x28#32, 0x28#32] ∧
    cellsOf o = some [(0, 3#8), (1, 4#8), (0x7FE, 1#8), (0x7FF, 2#8)] := by decide

/-- Section 2.6: the page select of 0x567 and of 0xF9C3. -/
theorem test_page_select :
    deviceAddress (shiftedPage 0x567#32) = 0x2D#32 ∧ deviceAddress (shiftedPage 0xF9C3#32) = 0x29#32 := by decide

/-- R51, R52: bus addresses. -/
theorem test_bus_addresses :
    Reg.busAddr cfg1 .config = 0x900 ∧ Reg.busAddr cfg1 .datain = 0x914 ∧ Reg.busAddr cfg1 .bytecnt = 0x920 ∧
    Reg.busAddr cfg1 .rstctrl = 0x34 := by decide

/-- The first command after power-on is fetched from HOST and run (R200). -/
theorem test_fetch :
    traceOf (step (State.reset.withFetchWord 96 0x000000000000000000000003)) = some [.report] := by decide

/-! ### Witnesses: a state and operands that meet the hypotheses of each obligation -/

/-- An oracle that lists five answers. -/
def oracle5 : Env := .oracle [7#32, 0#32, 1#32, 6#32, 2#32] 0

/-- `IDLE`, with no move of HOST. -/
def sIdle (c : Config) : State := idleAt c oracle5 [] []

/-- `IDLE`, ENV_IDEAL at rest. -/
def sIdeal (c : Config) : State := idleAt c (.ideal (rest [])) [] []

/-- `RUN` of the next state. -/
def runOf : Outcome → Option Run
  | .next t => some t.run
  | .fault f => nomatch f
  | .refused _ => none

/-- `BUSY` at a statement, after another. -/
def sBusy (u : Upc) (last : Option Upc) : State := (sIdle cfg1).withRun (.busy u last)

/-- Every obligation whose hypothesis is `Accepts i s`: the driver-level commands, at both ends of their lengths. -/
theorem witness_accepts_driver :
    Accepts (.init 0#32 0#32) (sIdle cfg1) ∧ Accepts (.init 0#32 0xFFFFFFFF#32) (sIdle cfg1) ∧
    Accepts (.dump 0#32 0#32) (sIdle cfg1) ∧ Accepts (.dump 0#32 0xFFFFFFFF#32) (sIdle cfg1) ∧
    Accepts (.read 0#32 0#32) (sIdle cfg1) ∧ Accepts (.read 0#32 48#32) (sIdle cfg1) ∧
    Accepts (.write 0#32 1#32) (sIdle cfg1) ∧ Accepts (.write 0#32 2#32) (sIdle cfg1) ∧
    Accepts (.write 0#32 4#32) (sIdle cfg1) := by
  refine ⟨?_, ?_, ?_, ?_, ?_, ?_, ?_, ?_, ?_⟩ <;> decide

/-- The same for BUSW and BUSR. -/
theorem witness_accepts_engine :
    Accepts (.busw 0#32 0#32) (sIdle cfg1) ∧ Accepts (.busw 0#32 48#32) (sIdle cfg1) ∧
    Accepts (.busr 0#32 1#32) (sIdle cfg1) ∧ Accepts (.busr 0#32 48#32) (sIdle cfg1) := by
  refine ⟨?_, ?_, ?_, ?_⟩ <;> decide

/-- The same for the MAPPER's commands. -/
theorem witness_accepts_mapper :
    Accepts (.eerd 0#32 0#32) (sIdle cfg1) ∧ Accepts (.eerd 0#32 48#32) (sIdle cfg1) ∧
    Accepts (.eerd1 0#32 0#32) (sIdle cfg1) ∧ Accepts (.eerd1 0#32 48#32) (sIdle cfg1) ∧
    Accepts (.eewr 0#32 0#32) (sIdle cfg1) ∧ Accepts (.eewr 0#32 48#32) (sIdle cfg1) := by
  refine ⟨?_, ?_, ?_, ?_, ?_, ?_⟩ <;> decide

/-- The same with two-byte addressing, for the clauses that ask for it. -/
theorem witness_accepts_two_byte :
    (sIdle cfg2).cfg.addrBytes = 2 ∧ Accepts (.eerd 0#32 48#32) (sIdle cfg2) ∧ Accepts (.eerd1 0#32 48#32) (sIdle cfg2) ∧
    Accepts (.eewr 0#32 48#32) (sIdle cfg2) ∧ Accepts (.busw 0#32 0#32) (sIdle cfg2) := by decide

/-- ReservedCommandWordsAreRefused: each clause at the ends of its ranges, with what `step` answers. -/
theorem witness_reserved :
    (sIdle cfg1).cfg.Valid ∧ (sIdle cfg1).run = .idle ∧
    ([256#32, 0xFFFFFF00#32, 0xFFFFFFFF#32].map fun w =>
      (decide (256 ≤ w.toNat), refusalOf (step ((sIdle cfg1).withHost [.present ⟨w, 0#32, 0#32⟩])))) =
        List.replicate 3 (true, some (.undecodable .zeroField)) ∧
    ([4#32, 0xF#32, 0x12#32, 0x1F#32, 0x23#32, 0xFF#32].map fun w =>
      (decide ((4 ≤ w.toNat ∧ w.toNat ≤ 0xF) ∨ (0x12 ≤ w.toNat ∧ w.toNat ≤ 0x1F) ∨ (0x23 ≤ w.toNat ∧ w.toNat ≤ 0xFF)),
        refusalOf (step ((sIdle cfg1).withHost [.present ⟨w, 0#32, 0#32⟩])))) =
        List.replicate 6 (true, some (.undecodable .reservedOpcode)) := by decide

/-- StepRunsThePresentedCommand. -/
theorem witness_step_runs :
    let s := (sIdle cfg1).withHost [.present ⟨3#32, 5#32, 6#32⟩, .fill []]
    s.cfg.Valid ∧ s.run = .idle ∧ s.host = .present ⟨3#32, 5#32, 6#32⟩ :: [.fill []] ∧
      decode [3#32, 5#32, 6#32] = .ok (.dump 5#32 6#32) := by decide

/-- IdleStepWaitsOrFillsBuf: no move; a fill of no byte, and of the whole BUF. -/
theorem witness_idle_step :
    (sIdle cfg1).cfg.Valid ∧ (sIdle cfg1).run = .idle ∧ (sIdle cfg1).host = [] ∧
    ((sIdle cfg1).withHost [.fill []]).host = .fill [] :: [] ∧ ([] : List Byte).length ≤ cfg1.bufSize ∧
    ((sIdle cfg1).withHost [.fill (List.replicate 48 7#8)]).host = .fill (List.replicate 48 7#8) :: [] ∧
    (List.replicate 48 7#8).length ≤ cfg1.bufSize := by decide

/-- WriteSizeIsChecked and LengthIsChecked: each clause. -/
theorem witness_lengths :
    (sIdle cfg1).cfg.Valid ∧ (sIdle cfg1).run = .idle ∧
    (0#32 ≠ 1#32 ∧ 0#32 ≠ 2#32 ∧ 0#32 ≠ 4#32) ∧ (3#32 ≠ 1#32 ∧ 3#32 ≠ 2#32 ∧ 3#32 ≠ 4#32) ∧
    (5#32 ≠ 1#32 ∧ 5#32 ≠ 2#32 ∧ 5#32 ≠ 4#32) ∧
    (48#32).toNat ≤ (sIdle cfg1).cfg.bufSize ∧ (sIdle cfg1).cfg.bufSize < (49#32).toNat := by decide

/-- BadParametersAreRefused: each way to be out of range. -/
theorem witness_bad_parameters :
    (¬{ cfg1 with addrBytes := 0 }.Valid ∧ (0 ≠ 1 ∧ 0 ≠ 2)) ∧ (¬{ cfg1 with addrBytes := 3 }.Valid ∧ (3 ≠ 1 ∧ 3 ≠ 2)) ∧
    (¬{ cfg1 with clkdivSim := 0 }.Valid ∧ { cfg1 with clkdivSim := 0 }.clkdiv = 0) ∧
    (¬{ cfg1 with clkdivSim := 0x10000 }.Valid ∧ 0xFFFF < { cfg1 with clkdivSim := 0x10000 }.clkdiv) := by
  decide

/-- BusySeqTakesNoCommandAndGoesOn, MicroStepEmitsTheEventOfItsLabel and UpdatesBelongToTheStepOfTheLaterEvent. -/
theorem witness_busy :
    ∀ u ∈ [Upc.report, .busw .command .w4, .busr (.reading .read) .r5, .select (.writing .eewr)],
      (sBusy u none).cfg.Valid ∧ (sBusy u none).run = .busy u none := by decide

/-- BusAccessesAppendTheirEvent, the clauses on shadows. -/
theorem witness_bus_accesses : OutReg.config ≠ .rstctrl ∧ OutReg.clkdiv ≠ .config := by decide

/-- PollSetSamplesUntilTheBitOrTheBound and WaitIdleSamplesUntilIdleOrTheBound: the bounds, and an oracle long enough
for the samples taken (one, two and one). -/
theorem witness_polls :
    1 ≤ (sIdle cfg1).cfg.maxBusyLoop ∧ 1 ≤ (sIdle cfg1).cfg.busyLoop ∧
    (pollSet statusTxEmpty (sIdle cfg1)).2.trace = [.read .status 7#32] ∧
    (pollSet statusDataReady (sIdle cfg1)).2.trace = [.read .status 7#32] ∧
    (waitIdle .busyW (sIdle cfg1)).trace = [.read .status 7#32, .read .status 0#32] := by decide

/-- PageSelectWritesTheSelector: each width, the first and the last selector. -/
theorem witness_page_select :
    (sIdle cfg1).cfg.addrBytes = 1 ∧ (sIdle cfg2).cfg.addrBytes = 2 ∧
      0x28#32 = BitVec.ofNat 32 (0x28 + (0xFFFFF8FF#32).toNat / 256 % 8) ∧
      0x2F#32 = BitVec.ofNat 32 (0x28 + (0x700#32).toNat / 256 % 8) := by decide

/-- ShortEerdIsEerd1: both ends. -/
theorem witness_short :
    (Accepts (.eerd 0#32 0#32) (sIdle cfg1) ∧ (0#32).toNat < 16) ∧
    (Accepts (.eerd 0#32 15#32) (sIdle cfg1) ∧ (15#32).toNat < 16) := by decide

/-- EerdDecomposes, Eerd1Decomposes, EewrDecomposes, MapperReadsFillBuf: no poll times out. -/
theorem witness_no_timeout :
    (Accepts (.eerd 0#32 17#32) (sIdeal cfg1) ∧ timeoutsOf (exec (.eerd 0#32 17#32) (sIdeal cfg1)) = some []) ∧
    (Accepts (.eerd1 0#32 2#32) (sIdeal cfg1) ∧ timeoutsOf (exec (.eerd1 0#32 2#32) (sIdeal cfg1)) = some []) ∧
    (Accepts (.eewr 0#32 9#32) (sIdeal cfg1) ∧ timeoutsOf (exec (.eewr 0#32 9#32) (sIdeal cfg1)) = some []) := by
  decide +kernel

/-- WithoutDataReadyBufIsStale: every STATUS sample of the command lacks DATARDY. -/
theorem witness_stale :
    let s := idleAt cfg1 (.oracle (List.replicate 55 1#32) 0) [] []
    Accepts (.busr 0#32 1#32) s ∧
      traceOf (exec (.busr 0#32 1#32) s) =
        some (.write .bytecnt 0#32 :: .write .startxfr 1#32 :: List.replicate 55 (.read .status 1#32)) ∧
      (1#32).getLsbD 2 = false := by decide

/-- MapperEventCountsAreBounded: the four abbreviations. -/
theorem witness_counts :
    (1 = if (sIdle cfg1).cfg.addrBytes = 1 then 1 else 0) ∧ 1 = (sIdle cfg1).cfg.addrBytes ∧
      26 = (sIdle cfg1).cfg.clkdiv * 25 + 1 ∧ 30 = (sIdle cfg1).cfg.clkdiv * 30 := by decide

/-- InitIsIdempotentOnTheShadows: RSTCTRL reads back what was last written. -/
theorem witness_idempotent :
    Accepts (.init 0#32 0#32) (sIdeal cfg1) ∧
      (match exec (.init 0#32 0#32) (sIdeal cfg1) with
       | .next t => some (decide ((t.env.answer t.cfg .rstctrl).1 = t.rstctrl))
       | .fault f => nomatch f
       | .refused _ => none) = some true := by decide

/-- AddressesWrapSilently: two different addresses, for each width. -/
theorem witness_wrap :
    (Accepts (.eewr 0x7FF#32 2#32) (sIdle cfg1) ∧
      (0xFFFFFFFF#32).toNat % (if (sIdle cfg1).cfg.addrBytes = 1 then 2048 else 65536) =
        (Instr.eewr 0x7FF#32 2#32).address.toNat % (if (sIdle cfg1).cfg.addrBytes = 1 then 2048 else 65536)) ∧
    (Accepts (.eewr 0xFFFF#32 2#32) (sIdle cfg2) ∧
      (0xFFFFFFFF#32).toNat % (if (sIdle cfg2).cfg.addrBytes = 1 then 2048 else 65536) =
        (Instr.eewr 0xFFFF#32 2#32).address.toNat % (if (sIdle cfg2).cfg.addrBytes = 1 then 2048 else 65536)) := by
  decide

/-- BusAddressesAreAlignedAndDistinct. -/
theorem witness_config : cfg1.Valid ∧ cfg2.Valid ∧ cfgProd.Valid ∧ State.resetConfig.Valid := by decide

/-- ParametersNeverChange: a step at reset. -/
theorem witness_step : step State.reset = .next State.reset := by rfl

/-- CommandsAreRunsOfMicroSteps. -/
theorem witness_exec :
    ∃ t, exec (.dump 0#32 0#32) (sIdle cfg1) = .next t ∧ t.trace = [.report] := ⟨_, rfl, rfl⟩

/-- SEQ at the DATAIN read of the last index of BUF, after a ready sample. -/
def sDatain : State :=
  (sBusy (.busr .command .r4) (some (.busr .command .r3))).withWork
    { State.resetWork with tn := 48#32, i := 47#32, len := 48#32, v := 4#32 }

/-- R25, R111: the step of R4 leaves BUF; the byte DATAIN gave comes into BUF with the step after it. -/
theorem test_datain_byte_waits :
    let s := sDatain.withBuf [(47, 0x11#8)]
    let after := (s.withWork { s.work with v := 0xFFFFFFAB#32 }).withRun
      (.busy (.busr .command .r5) (some (.busr .command .r4)))
    (bufOf 48 (step s)).map (·.getD 47 0#8) = some 0x11#8 ∧
    (bufOf 48 (step after)).map (·.getD 47 0#8) = some 0xAB#8 := by decide

/-- StepKeepsTheInvariant: inside a command, with a byte of BUF's last index still to come. -/
theorem witness_invariant :
    sDatain.Inv ∧ step sDatain = .next (microStep (.busr .command .r4) (some (.busr .command .r3)) sDatain) := by
  refine ⟨⟨⟨List.Pairwise.nil, fun x hx => nomatch hx⟩,
    ⟨.inl rfl, .inl rfl, .inl rfl, rfl, .inl rfl, .inl rfl, .inl rfl⟩, rfl, trivial, ?_⟩, rfl⟩
  intro u last hu
  cases hu
  exact ⟨rfl, ⟨List.Pairwise.nil, fun x hx => nomatch hx⟩, rfl, ⟨rfl, by decide, by decide⟩, by decide⟩

/-- DatainByteIsStoredByTheNextStep. -/
theorem witness_datain :
    sDatain.cfg.Valid ∧ sDatain.run = .busy (.busr .command .r4) (some (.busr .command .r3)) ∧
      sDatain.work.v.getLsbD 2 = true ∧ 7#32 = (sDatain.env.answer sDatain.cfg .datain).1 := by decide

/-- UpdatesBelongToTheStepOfTheLaterEvent: a step that ends its command, and one that does not. -/
theorem witness_updates :
    runOf (step (sBusy .report none)) = some .idle ∧
    runOf (step sDatain) = some (.busy (.busr .command .r5) (some (.busr .command .r4))) := by decide

/-- DividerAndPollBudgetsFollowTheBoard and InitPulsesResetAndWritesDefaults: each board. -/
theorem witness_boards :
    cfgProd.board = .prod ∧ cfg1.board = .sim ∧ Accepts (.init 0#32 0#32) (sIdle cfgProd) ∧
      Accepts (.init 0#32 0#32) (sIdle cfg1) := by decide

/-- BusAccessesAppendTheirEvent, the clauses on an oracle: with a listed answer, and with none. -/
theorem witness_oracle :
    (sIdle cfg1).env = .oracle (7#32 :: [0#32, 1#32, 6#32, 2#32]) 0 ∧
      (idleAt cfg1 (.oracle [] 3) [] []).env = .oracle [] 3 := by decide

/-- IdealEnvEventCounts, IdealEnvReadsTheCells, IdealEnvRoundTrip. -/
theorem witness_ideal :
    (sIdeal cfg1).env = .ideal (rest []) ∧ (rest []).mode = .idle ∧
    Accepts (.eerd 0x7FF#32 48#32) (sIdeal cfg1) ∧ Accepts (.eerd1 0x7FF#32 48#32) (sIdeal cfg1) ∧
    Accepts (.eewr 0x7FF#32 48#32) (sIdeal cfg1) ∧ (48#32).toNat ≤ (sIdeal cfg1).cfg.eepromSize := by decide

end Sys2Proof.Tests
end

section
/-! PROOFS. The scope statements (00_scope.md): the parameters' ranges, divider and poll budgets, the parameters along
a step, and the TRACE and the ghost record, which no rule reads. -/

namespace Sys2Proof.Machine

/-! ### Parameters out of range (R9, R194) -/

/-- Acceptance checks the parameters before anything else. -/
theorem acceptRefusal_of_not_valid {s : State} (h : ¬s.cfg.Valid) (i : Instr) :
    acceptRefusal i s = some .configuration := if_neg h

theorem exec_of_not_valid {s : State} (h : ¬s.cfg.Valid) (i : Instr) : exec i s = .refused .configuration := by
  simp only [exec_eq, runCommand, acceptRefusal_of_not_valid h]

theorem step_of_not_valid {s : State} (h : ¬s.cfg.Valid) : step s = .refused .configuration := if_neg h

/-- Settles O8: the check of the parameters comes first in `step` and in acceptance, and its first two clauses are the
ranges of R9. -/
theorem badParametersAreRefused : Obligations.BadParametersAreRefused := by
  intro s
  refine ⟨fun h => ⟨step_of_not_valid h, exec_of_not_valid h⟩, fun hbad hvalid => ?_⟩
  obtain ⟨haddr, hclk, -⟩ := hvalid
  omega

/-! ### The divider of each board (R7) -/

theorem clkdiv_of_prod {c : Config} (h : c.board = .prod) : c.clkdiv = 375 := by
  simp only [Config.clkdiv, h, Config.clkdivProd]

theorem clkdiv_of_sim {c : Config} (h : c.board = .sim) : c.clkdiv = c.clkdivSim := by
  simp only [Config.clkdiv, h]

/-- Settles O57: the poll budgets are multiples of the divider, which the board selects. -/
theorem dividerAndPollBudgetsFollowTheBoard : Obligations.DividerAndPollBudgetsFollowTheBoard := by
  intro c
  constructor
  · intro h
    simp only [Config.maxBusyLoop, Config.busyLoop, clkdiv_of_prod h, and_self]
  · intro h
    simp only [Config.maxBusyLoop, Config.busyLoop, clkdiv_of_sim h, and_self]

/-! ### No step changes the parameters (R8) -/

@[simp] theorem commandBody_cfg (i : Instr) (s : State) : (commandBody i s).cfg = s.cfg := by
  cases i with
  | init _ _ => exact busInit_cfg s
  | read _ _ => exact (eerd_kept _).cfg.trans (busInit_cfg s)
  | write _ _ => exact (eewr_kept _).cfg.trans (busInit_cfg s)
  | dump _ _ => exact report_cfg s
  | busw _ _ => exact (busw_kept _ _ _ s).cfg
  | busr _ _ => exact (busr_kept _ _ s).cfg
  | eerd _ _ => exact (eerd_kept s).cfg
  | eerd1 _ _ => exact (eerd1_kept s).cfg
  | eewr _ _ => exact (eewr_kept s).cfg

theorem exec_cfg {i : Instr} {s t : State} (h : exec i s = .next t) : t.cfg = s.cfg := by
  obtain ⟨-, rfl⟩ := exec_next h
  simp

@[simp] theorem proceed_cfg (last : Option Upc) (s : State) : (proceed last s).cfg = s.cfg := by
  cases h : (pending last s).1 with
  | none => rw [proceed_idle h, State.withRun_cfg, pending_cfg]
  | some u => rw [(proceed_busy h).1, State.withRun_cfg]

@[simp] theorem microStep_cfg (u : Upc) (last : Option Upc) (s : State) : (microStep u last s).cfg = s.cfg := by
  simp only [microStep, proceed_cfg, event_cfg, pending_cfg]

/-- Settles O44, by the cases of what a step can do. -/
theorem parametersNeverChange : Obligations.ParametersNeverChange := by
  intro s t h
  obtain ⟨-, ⟨u, last, -, rfl⟩ | ⟨-, -, rfl⟩ | ⟨-, bytes, rest, -, -, rfl⟩ | ⟨-, c, rest, i, -, -, hexec⟩⟩ :=
    step_cases h
  · exact microStep_cfg u last s
  · rfl
  · rfl
  · exact (exec_cfg hexec).trans (State.withHost_cfg s rest)

/-! ### A longer past: more TRACE and more ghosts before those of the state

Every operation only appends to the TRACE and the ghost record and reads neither, so it commutes with putting a past
in front of them. -/

/-- The state with the events `es` and the timeouts `g` before its own. -/
def State.withPast (s : State) (es : List Event) (g : List Timeout) : State :=
  (s.withTrace (es ++ s.trace)).withTimeouts (g ++ s.timeouts)

/-- A past before nothing is a TRACE and a ghost record. -/
theorem withPast_of_empty (s : State) (es : List Event) (g : List Timeout) :
    ((s.withTrace []).withTimeouts []).withPast es g = (s.withTrace es).withTimeouts g := by
  simp [State.withPast, State.withTrace, State.withTimeouts]

section Past

variable (es : List Event) (g : List Timeout) (s : State)

@[simp] theorem withPast_cfg : (s.withPast es g).cfg = s.cfg := rfl
@[simp] theorem withPast_work : (s.withPast es g).work = s.work := rfl
@[simp] theorem withPast_shadow : (s.withPast es g).shadow = s.shadow := rfl
@[simp] theorem withPast_rstctrl : (s.withPast es g).rstctrl = s.rstctrl := rfl
@[simp] theorem withPast_env : (s.withPast es g).env = s.env := rfl

/-! Updates of one field, and the operand forms. -/

@[simp] theorem withRun_withPast (r : Run) : (s.withPast es g).withRun r = (s.withRun r).withPast es g := rfl
@[simp] theorem withShadow_withPast (c : CtrlRegs) :
    (s.withPast es g).withShadow c = (s.withShadow c).withPast es g := rfl
@[simp] theorem withRstctrl_withPast (v : Word) :
    (s.withPast es g).withRstctrl v = (s.withRstctrl v).withPast es g := rfl
@[simp] theorem withEnv_withPast (e : Env) : (s.withPast es g).withEnv e = (s.withEnv e).withPast es g := rfl
@[simp] theorem setI_withPast (v : Word) : (s.withPast es g).setI v = (s.setI v).withPast es g := rfl
@[simp] theorem setJ_withPast (v : Word) : (s.withPast es g).setJ v = (s.setJ v).withPast es g := rfl
@[simp] theorem setV_withPast (v : Word) : (s.withPast es g).setV v = (s.setV v).withPast es g := rfl
@[simp] theorem setB_withPast (v : Word) : (s.withPast es g).setB v = (s.setB v).withPast es g := rfl
@[simp] theorem setK_withPast (v : Word) : (s.withPast es g).setK v = (s.setK v).withPast es g := rfl
@[simp] theorem setPage_withPast (p : BitVec 4) : (s.withPast es g).setPage p = (s.setPage p).withPast es g := rfl
@[simp] theorem setBusw_withPast (ta bo tn : Word) :
    (s.withPast es g).setBusw ta bo tn = (s.setBusw ta bo tn).withPast es g := rfl
@[simp] theorem setBusr_withPast (bo tn : Word) :
    (s.withPast es g).setBusr bo tn = (s.setBusr bo tn).withPast es g := rfl
@[simp] theorem bufStore_withPast (i : Nat) (b : Byte) :
    (s.withPast es g).bufStore i b = (s.bufStore i b).withPast es g := rfl
@[simp] theorem latch_withPast (i : Instr) : latch i (s.withPast es g) = (latch i s).withPast es g := rfl
@[simp] theorem splitLength_withPast (z : Word) :
    splitLength z (s.withPast es g) = (splitLength z s).withPast es g := rfl
@[simp] theorem sliceOfBlock_withPast (z : Word) :
    sliceOfBlock z (s.withPast es g) = (sliceOfBlock z s).withPast es g := rfl
@[simp] theorem sliceOfTail_withPast (z : Word) :
    sliceOfTail z (s.withPast es g) = (sliceOfTail z s).withPast es g := rfl
@[simp] theorem sliceOfByte_withPast : sliceOfByte (s.withPast es g) = (sliceOfByte s).withPast es g := rfl
@[simp] theorem firstByte_withPast : firstByte (s.withPast es g) = firstByte s := rfl
@[simp] theorem nextByte_withPast : nextByte (s.withPast es g) = nextByte s := rfl

/-! The two updates that append, and the primitives made of them. -/

@[simp] theorem emit_withPast (e : Event) : (s.withPast es g).emit e = (s.emit e).withPast es g := by
  simp [State.withPast, State.emit, State.withTrace, State.withTimeouts]

@[simp] theorem noteTimeout_withPast (t : Timeout) :
    (s.withPast es g).noteTimeout t = (s.noteTimeout t).withPast es g := by
  simp [State.withPast, State.noteTimeout, State.withTrace, State.withTimeouts]

@[simp] theorem busRead_withPast (r : InReg) : busRead r (s.withPast es g) = (busRead r s).withPast es g := by
  simp [busRead]

@[simp] theorem busWrite_withPast (r : OutReg) (v : Word) :
    busWrite r v (s.withPast es g) = (busWrite r v s).withPast es g := by
  simp [busWrite]

@[simp] theorem delay_withPast (n : Nat) : delay n (s.withPast es g) = (delay n s).withPast es g := by simp [delay]

@[simp] theorem report_withPast : report (s.withPast es g) = (report s).withPast es g := by simp [report]

@[simp] theorem controllerReset_withPast :
    controllerReset (s.withPast es g) = (controllerReset s).withPast es g := rfl

/-! The ENGINE (R102 to R111). -/

theorem pollLoop_withPast (test : Word → Bool) (n : Nat) :
    pollLoop test n (s.withPast es g) = ((pollLoop test n s).1, (pollLoop test n s).2.withPast es g) := by
  induction n generalizing s with
  | zero => rfl
  | succ n ih =>
    by_cases h : test (busRead .status s).work.v = true
    · simp only [pollLoop, busRead_withPast, withPast_work, if_pos h]
    · simp only [pollLoop, busRead_withPast, withPast_work, if_neg h, setJ_withPast, ih]

@[simp] theorem poll_withPast (test : Word → Bool) (n : Nat) :
    poll test n (s.withPast es g) = ((poll test n s).1, (poll test n s).2.withPast es g) :=
  pollLoop_withPast es g (s.setJ 0#32) test n

@[simp] theorem waitIdle_withPast (t : Timeout) :
    waitIdle t (s.withPast es g) = (waitIdle t s).withPast es g := by
  by_cases h : (poll statusIdle s.cfg.busyLoop s).1 = true <;> simp [waitIdle, h]

@[simp] theorem busInit_withPast : busInit (s.withPast es g) = (busInit s).withPast es g := by
  simp [busInit, writeDefaults, resetPulse]

@[simp] theorem buswPosition_withPast : buswPosition (s.withPast es g) = (buswPosition s).withPast es g := by
  by_cases h : (poll statusTxEmpty s.cfg.maxBusyLoop s).1 = true <;> simp [buswPosition, pollSet, h]

@[simp] theorem busrPosition_withPast : busrPosition (s.withPast es g) = (busrPosition s).withPast es g := by
  by_cases h : (poll statusDataReady s.cfg.maxBusyLoop s).1 = true <;> simp [busrPosition, pollSet, h]

@[simp] theorem buswLoop_withPast (n : Nat) : buswLoop n (s.withPast es g) = (buswLoop n s).withPast es g := by
  induction n generalizing s with
  | zero => rfl
  | succ n ih => simp only [buswLoop, buswPosition_withPast, ih]

@[simp] theorem busrLoop_withPast (n : Nat) : busrLoop n (s.withPast es g) = (busrLoop n s).withPast es g := by
  induction n generalizing s with
  | zero => rfl
  | succ n ih => simp only [busrLoop, busrPosition_withPast, ih]

@[simp] theorem busw_withPast (ta bo tn : Word) :
    busw ta bo tn (s.withPast es g) = (busw ta bo tn s).withPast es g := by
  simp [busw, buswStart]

@[simp] theorem busr_withPast (bo tn : Word) : busr bo tn (s.withPast es g) = (busr bo tn s).withPast es g := by
  simp [busr, busrStart]

/-! The MAPPER (R131 to R139). -/

@[simp] theorem pageSelect_withPast (a : Word) :
    pageSelect a (s.withPast es g) = (pageSelect a s).withPast es g := by
  by_cases h : s.cfg.addrBytes = 1 <;> simp [pageSelect, h]

@[simp] theorem readAt_withPast (n : Word) : readAt n (s.withPast es g) = (readAt n s).withPast es g := by
  simp [readAt]

@[simp] theorem writeAt_withPast (n : Word) : writeAt n (s.withPast es g) = (writeAt n s).withPast es g := by
  simp [writeAt]

theorem blockLoop_withPast {act : State → State} (hact : ∀ s, act (s.withPast es g) = (act s).withPast es g)
    (z : Word) (n : Nat) : blockLoop z act n (s.withPast es g) = (blockLoop z act n s).withPast es g := by
  induction n generalizing s with
  | zero => rfl
  | succ n ih => simp only [blockLoop, sliceOfBlock_withPast, hact, withPast_work, setB_withPast, ih]

theorem tailLoop_withPast {act : State → State} (hact : ∀ s, act (s.withPast es g) = (act s).withPast es g)
    (z : Word) (n : Nat) : tailLoop z act n (s.withPast es g) = (tailLoop z act n s).withPast es g := by
  induction n generalizing s with
  | zero => rfl
  | succ n ih => simp only [tailLoop, sliceOfTail_withPast, hact, withPast_work, setK_withPast, ih]

theorem byteLoop_withPast (n : Nat) : byteLoop n (s.withPast es g) = (byteLoop n s).withPast es g := by
  induction n generalizing s with
  | zero => rfl
  | succ n ih => simp only [byteLoop, sliceOfByte_withPast, readAt_withPast, withPast_work, setK_withPast, ih]

@[simp] theorem eerd_withPast : eerd (s.withPast es g) = (eerd s).withPast es g := by
  simp [eerd, blockLoop_withPast, tailLoop_withPast]

@[simp] theorem eerd1_withPast : eerd1 (s.withPast es g) = (eerd1 s).withPast es g := by
  simp [eerd1, byteLoop_withPast]

@[simp] theorem eewr_withPast : eewr (s.withPast es g) = (eewr s).withPast es g := by
  simp [eewr, blockLoop_withPast, tailLoop_withPast]

/-! The commands. -/

theorem commandBody_withPast (i : Instr) :
    commandBody i (s.withPast es g) = (commandBody i s).withPast es g := by
  cases i <;> simp [commandBody]

/-- An accepted command answers the same whatever the past, with that past before what it appends. -/
theorem exec_withPast {i : Instr} {s : State} (h : Accepts i s) :
    exec i (s.withPast es g) = .next (((commandBody i (latch i s)).withRun .idle).withPast es g) := by
  have hpast : Accepts i (s.withPast es g) := h
  rw [exec_accepts hpast, latch_withPast, commandBody_withPast, withRun_withPast]

end Past

/-- Settles O47: both runs are the run without a past, each with its own past put in front. -/
theorem traceAndGhostsAreNeverRead : Obligations.TraceAndGhostsAreNeverRead := by
  intro i s es g h
  have hempty : Accepts i ((s.withTrace []).withTimeouts []) := h
  have hown := exec_withPast s.trace s.timeouts hempty
  have hother := exec_withPast es g hempty
  rw [withPast_of_empty] at hown hother
  exact ⟨_, _, _, _, hown, hother, rfl, rfl, rfl, rfl, rfl⟩

end Sys2Proof.Machine
end

section
/-! PROOFS. The state statements (10_state.md). First noninterference: no operation depends on a working register it has
not written itself (R20, R22). -/

namespace Sys2Proof.Machine

/-! ### What the working registers held before does not matter (R20, R22) -/

theorem sameButWork_withWork (s : State) (w : Work) : SameButWork s (s.withWork w) := rfl

/-- States that differ in working registers only differ by a write of them. -/
theorem SameButWork.exists_withWork {s t : State} (h : SameButWork s t) : ∃ w, t = s.withWork w :=
  ⟨t.work, h.symm⟩

/-- An update of working registers on both sides. -/
theorem SameButWork.withWork {s t : State} (h : SameButWork s t) (v w : Work) :
    SameButWork (s.withWork v) (t.withWork w) := by
  obtain ⟨x, rfl⟩ := h.exists_withWork
  rfl

theorem SameButWork.withRun {s t : State} (h : SameButWork s t) (r : Run) :
    SameButWork (s.withRun r) (t.withRun r) := by
  obtain ⟨x, rfl⟩ := h.exists_withWork
  rfl

theorem SameButWork.cfg {s t : State} (h : SameButWork s t) : t.cfg = s.cfg := by
  obtain ⟨x, rfl⟩ := h.exists_withWork
  rfl

theorem SameButWork.buf {s t : State} (h : SameButWork s t) : t.buf = s.buf := by
  obtain ⟨x, rfl⟩ := h.exists_withWork
  rfl

theorem SameButWork.busRead {s t : State} (h : SameButWork s t) (r : InReg) :
    SameButWork (busRead r s) (busRead r t) ∧ (Machine.busRead r t).work.v = (Machine.busRead r s).work.v := by
  obtain ⟨x, rfl⟩ := h.exists_withWork
  exact ⟨rfl, rfl⟩

theorem SameButWork.busWrite {s t : State} (h : SameButWork s t) (r : OutReg) (v : Word) :
    SameButWork (busWrite r v s) (busWrite r v t) := by
  obtain ⟨x, rfl⟩ := h.exists_withWork
  rfl

theorem SameButWork.bufStore {s t : State} (h : SameButWork s t) (i : Nat) (b : Byte) :
    SameButWork (s.bufStore i b) (t.bufStore i b) := by
  obtain ⟨x, rfl⟩ := h.exists_withWork
  rfl

theorem SameButWork.noteTimeout {s t : State} (h : SameButWork s t) (m : Timeout) :
    SameButWork (s.noteTimeout m) (t.noteTimeout m) := by
  obtain ⟨x, rfl⟩ := h.exists_withWork
  rfl

theorem SameButWork.delay {s t : State} (h : SameButWork s t) (n : Nat) :
    SameButWork (delay n s) (delay n t) := by
  obtain ⟨x, rfl⟩ := h.exists_withWork
  rfl

/-- The samples are ENV's answers, tested as they come; `J` only counts. -/
theorem pollLoop_sameButWork (test : Word → Bool) (n : Nat) {s t : State} (h : SameButWork s t) :
    (pollLoop test n t).1 = (pollLoop test n s).1 ∧ SameButWork (pollLoop test n s).2 (pollLoop test n t).2 := by
  induction n generalizing s t with
  | zero => exact ⟨rfl, h⟩
  | succ n ih =>
    obtain ⟨hread, hv⟩ := h.busRead .status
    simp only [pollLoop, hv]
    split
    · exact ⟨rfl, hread⟩
    · exact ih (hread.withWork _ _)

theorem poll_sameButWork (test : Word → Bool) (n : Nat) {s t : State} (h : SameButWork s t) :
    (poll test n t).1 = (poll test n s).1 ∧ SameButWork (poll test n s).2 (poll test n t).2 :=
  pollLoop_sameButWork test n (h.withWork _ _)

theorem waitIdle_sameButWork (m : Timeout) {s t : State} (h : SameButWork s t) :
    SameButWork (waitIdle m s) (waitIdle m t) := by
  obtain ⟨hok, hpoll⟩ := poll_sameButWork statusIdle s.cfg.busyLoop h
  simp only [waitIdle, h.cfg, hok]
  split
  · exact hpoll
  · exact hpoll.noteTimeout m

/-- Equal but for the working registers, of which `BO` and `I`, which name the byte position, agree. -/
structure SamePosition (s t : State) : Prop where
  same : SameButWork s t
  bo : t.work.bo = s.work.bo
  i : t.work.i = s.work.i

/-- On to the next position. -/
theorem SamePosition.next {s t : State} (h : SamePosition s t) :
    SamePosition (s.setI (s.work.i + 1#32)) (t.setI (t.work.i + 1#32)) :=
  ⟨h.same.withWork _ _, h.bo, congrArg (· + 1#32) h.i⟩

theorem SamePosition.noteTimeout {s t : State} (h : SamePosition s t) (mark : Word → Timeout) :
    SamePosition (s.noteTimeout (mark s.work.i)) (t.noteTimeout (mark t.work.i)) := by
  rw [h.i]
  exact ⟨h.same.noteTimeout _, h.bo, h.i⟩

theorem SamePosition.store {s t : State} (h : SamePosition s t) (hv : t.work.v = s.work.v) :
    SamePosition (s.bufStore (s.work.bo + s.work.i).toNat s.work.v.lowByte)
      (t.bufStore (t.work.bo + t.work.i).toNat t.work.v.lowByte) := by
  rw [h.bo, h.i, hv]
  exact ⟨h.same.bufStore _ _, h.bo, h.i⟩

/-- A poll writes `J` and `V` only. -/
theorem poll_leaves (test : Word → Bool) (n : Nat) (s : State) :
    (poll test n s).2.work.ta = s.work.ta ∧ (poll test n s).2.work.bo = s.work.bo ∧
      (poll test n s).2.work.i = s.work.i := by
  obtain ⟨_, _, _, _, _, h, -⟩ := poll_spec test n s
  rw [h]
  exact ⟨rfl, rfl, rfl⟩

theorem poll_samePosition (test : Word → Bool) (n : Nat) {s t : State} (h : SamePosition s t) :
    (poll test n t).1 = (poll test n s).1 ∧ SamePosition (poll test n s).2 (poll test n t).2 := by
  obtain ⟨hok, hpoll⟩ := poll_sameButWork test n h.same
  obtain ⟨-, hbo, hi⟩ := poll_leaves test n s
  obtain ⟨-, hbo', hi'⟩ := poll_leaves test n t
  exact ⟨hok, hpoll, by rw [hbo, hbo', h.bo], by rw [hi, hi', h.i]⟩

theorem buswPosition_samePosition {s t : State} (h : SamePosition s t) (hta : t.work.ta = s.work.ta) :
    SamePosition (buswPosition s) (buswPosition t) := by
  obtain ⟨hok, hp⟩ := poll_samePosition statusTxEmpty s.cfg.maxBusyLoop h
  have hbyte : nextByte (poll statusTxEmpty s.cfg.maxBusyLoop t).2 =
      nextByte (poll statusTxEmpty s.cfg.maxBusyLoop s).2 :=
    nextByte_congr hp.same.cfg hp.same.buf (by rw [(poll_leaves _ _ s).1, (poll_leaves _ _ t).1, hta]) hp.bo hp.i
  unfold buswPosition pollSet
  refine SamePosition.next ?_
  rw [h.same.cfg, hok, hbyte]
  split
  · exact ⟨hp.same.busWrite _ _, hp.bo, hp.i⟩
  · exact hp.noteTimeout .tx

theorem buswPosition_ta (s : State) : (buswPosition s).work.ta = s.work.ta := by
  obtain ⟨_, _, _, _, _, _, _, h, -⟩ := buswPosition_spec s
  rw [h]
  rfl

theorem buswLoop_samePosition (n : Nat) {s t : State} (h : SamePosition s t) (hta : t.work.ta = s.work.ta) :
    SamePosition (buswLoop n s) (buswLoop n t) := by
  induction n generalizing s t with
  | zero => exact h
  | succ n ih => exact ih (buswPosition_samePosition h hta) (by rw [buswPosition_ta, buswPosition_ta, hta])

theorem busrPosition_samePosition {s t : State} (h : SamePosition s t) :
    SamePosition (busrPosition s) (busrPosition t) := by
  obtain ⟨hok, hp⟩ := poll_samePosition statusDataReady s.cfg.maxBusyLoop h
  unfold busrPosition pollSet
  refine SamePosition.next ?_
  rw [h.same.cfg, hok]
  split
  · obtain ⟨hread, hv⟩ := hp.same.busRead .datain
    exact SamePosition.store ⟨hread, hp.bo, hp.i⟩ hv
  · exact hp.noteTimeout .rx

theorem busrLoop_samePosition (n : Nat) {s t : State} (h : SamePosition s t) :
    SamePosition (busrLoop n s) (busrLoop n t) := by
  induction n generalizing s t with
  | zero => exact h
  | succ n ih => exact ih (busrPosition_samePosition h)

/-- BUSW sets all its registers from its arguments (R108). -/
theorem busw_sameButWork (ta bo tn : Word) {s t : State} (h : SameButWork s t) :
    SameButWork (busw ta bo tn s) (busw ta bo tn t) := by
  obtain ⟨w, rfl⟩ := h.exists_withWork
  have hstart : SamePosition (buswStart (s.setBusw ta bo tn)) (buswStart ((s.withWork w).setBusw ta bo tn)) :=
    ⟨rfl, rfl, rfl⟩
  exact waitIdle_sameButWork _ (buswLoop_samePosition _ hstart rfl).same

/-- BUSR sets all its registers from its arguments (R111). -/
theorem busr_sameButWork (bo tn : Word) {s t : State} (h : SameButWork s t) :
    SameButWork (busr bo tn s) (busr bo tn t) := by
  obtain ⟨w, rfl⟩ := h.exists_withWork
  have hstart : SamePosition (busrStart (s.setBusr bo tn)) (busrStart ((s.withWork w).setBusr bo tn)) :=
    ⟨rfl, rfl, rfl⟩
  exact waitIdle_sameButWork _ (busrLoop_samePosition _ hstart).same

theorem busInit_sameButWork {s t : State} (h : SameButWork s t) : SameButWork (busInit s) (busInit t) := by
  obtain ⟨w, rfl⟩ := h.exists_withWork
  rfl

theorem pageSelect_sameButWork (a : Word) {s t : State} (h : SameButWork s t) :
    SameButWork (pageSelect a s) (pageSelect a t) := by
  obtain ⟨w, rfl⟩ := h.exists_withWork
  by_cases ha : s.cfg.addrBytes = 1
  · simp only [pageSelect, State.withWork_cfg, if_pos ha]
    rfl
  · simp only [pageSelect, State.withWork_cfg, if_neg ha]
    rfl

/-- Equal but for the working registers, of which `A` and `BO`, which name the slice, agree. -/
structure SameSlice (s t : State) : Prop where
  same : SameButWork s t
  a : t.work.a = s.work.a
  bo : t.work.bo = s.work.bo

theorem readAt_sameButWork (n : Word) {s t : State} (h : SameSlice s t) :
    SameButWork (readAt n s) (readAt n t) := by
  simp only [readAt, h.a, h.bo]
  exact busr_sameButWork _ _ (busw_sameButWork _ _ _ (pageSelect_sameButWork _ h.same))

theorem writeAt_sameButWork (n : Word) {s t : State} (h : SameSlice s t) :
    SameButWork (writeAt n s) (writeAt n t) := by
  simp only [writeAt, h.a, h.bo]
  exact (busw_sameButWork _ _ _ (pageSelect_sameButWork _ h.same)).delay _

section Loops

variable {act : State → State} (hact : ∀ s t, SameSlice s t → SameButWork (act s) (act t))
  (hkept : ∀ s, KeptLoop s (act s))

include hact hkept

/-- The block loop reads `ADDR` and `B`, which its slices leave to it. -/
theorem blockLoop_sameButWork (z : Word) (n : Nat) {s t : State} (h : SameButWork s t)
    (haddr : t.work.addr = s.work.addr) (hb : t.work.b = s.work.b) :
    SameButWork (blockLoop z act n s) (blockLoop z act n t) := by
  induction n generalizing s t with
  | zero => exact h
  | succ n ih =>
    have hs := (KeptLoop.sliceOfBlock s z).trans (hkept (sliceOfBlock z s))
    have ht := (KeptLoop.sliceOfBlock t z).trans (hkept (sliceOfBlock z t))
    have hslice : SameSlice (sliceOfBlock z s) (sliceOfBlock z t) :=
      ⟨h.withWork _ _, by simp [haddr, hb], by simp [hb]⟩
    exact ih ((hact _ _ hslice).withWork _ _) (by simp [hs.addr, ht.addr, haddr]) (by simp [hs.b, ht.b, hb])

/-- The tail loop reads `ADDR`, `NBLK` and `K`. -/
theorem tailLoop_sameButWork (z : Word) (n : Nat) {s t : State} (h : SameButWork s t)
    (haddr : t.work.addr = s.work.addr) (hnblk : t.work.nblk = s.work.nblk) (hk : t.work.k = s.work.k) :
    SameButWork (tailLoop z act n s) (tailLoop z act n t) := by
  induction n generalizing s t with
  | zero => exact h
  | succ n ih =>
    have hs := (KeptLoop.sliceOfTail s z).trans (hkept (sliceOfTail z s))
    have ht := (KeptLoop.sliceOfTail t z).trans (hkept (sliceOfTail z t))
    have hslice : SameSlice (sliceOfTail z s) (sliceOfTail z t) :=
      ⟨h.withWork _ _, by simp [haddr, hnblk, hk], by simp [hnblk, hk]⟩
    exact ih ((hact _ _ hslice).withWork _ _) (by simp [hs.addr, ht.addr, haddr])
      (by simp [hs.nblk, ht.nblk, hnblk]) (by simp [hs.k, ht.k, hk])

end Loops

/-- EERD1's loop reads `ADDR` and `K`. -/
theorem byteLoop_sameButWork (n : Nat) {s t : State} (h : SameButWork s t)
    (haddr : t.work.addr = s.work.addr) (hk : t.work.k = s.work.k) :
    SameButWork (byteLoop n s) (byteLoop n t) := by
  induction n generalizing s t with
  | zero => exact h
  | succ n ih =>
    have hs := (KeptLoop.sliceOfByte s).trans (readAt_kept 1#32 (sliceOfByte s))
    have ht := (KeptLoop.sliceOfByte t).trans (readAt_kept 1#32 (sliceOfByte t))
    have hslice : SameSlice (sliceOfByte s) (sliceOfByte t) :=
      ⟨h.withWork _ _, by simp [haddr, hk], by simp [hk]⟩
    exact ih ((readAt_sameButWork 1#32 hslice).withWork _ _) (by simp [hs.addr, ht.addr, haddr])
      (by simp [hs.k, ht.k, hk])

/-! EERD and EEWR have one shape: full blocks, then the tail (R134, R139). -/

/-- The latched length split and its full blocks of `z` bytes done, each by `act`. -/
def afterBlocks (z : Word) (act : Word → State → State) (s : State) : State :=
  blockLoop z (act z) (s.work.len / z).toNat ((splitLength z s).setB 0#32)

/-- The full blocks, then the tail byte by byte. -/
def slicedTransfer (z : Word) (act : Word → State → State) (s : State) : State :=
  tailLoop z (act 1#32) (s.work.len % z).toNat ((afterBlocks z act s).setK 0#32)

/-- The full blocks leave the latched operands and the block counts, and `B` at their number. -/
theorem afterBlocks_kept (z : Word) {act : Word → State → State} (hkept : ∀ n s, KeptLoop s (act n s))
    (s : State) :
    Kept s (afterBlocks z act s) ∧ (afterBlocks z act s).work.nblk = s.work.len / z ∧
      (afterBlocks z act s).work.rem = s.work.len % z ∧ (afterBlocks z act s).work.b = s.work.len / z := by
  obtain ⟨k, hnblk, hrem, hb⟩ :=
    blockLoop_kept z (hkept z) (s.work.len / z).toNat ((splitLength z s).setB 0#32)
  refine ⟨((Kept.splitLength s z).trans (Kept.setB _ _)).trans k, hnblk, hrem, hb.trans ?_⟩
  rw [setB_work, BitVec.ofNat_toNat, BitVec.setWidth_eq, BitVec.zero_add]

theorem eerd_eq (s : State) : eerd s = slicedTransfer Config.rdBlock readAt s := by
  obtain ⟨-, -, hrem, -⟩ := afterBlocks_kept Config.rdBlock readAt_kept s
  rw [slicedTransfer, ← hrem]
  rfl

theorem eewr_eq (s : State) : eewr s = slicedTransfer Config.wrBlock writeAt s := by
  obtain ⟨-, -, hrem, -⟩ := afterBlocks_kept Config.wrBlock writeAt_kept s
  rw [slicedTransfer, ← hrem]
  rfl

/-- The loops of a sliced transfer start from the latched operands. -/
theorem slicedTransfer_sameButWork (z : Word) {act : Word → State → State}
    (hact : ∀ n s t, SameSlice s t → SameButWork (act n s) (act n t)) (hkept : ∀ n s, KeptLoop s (act n s))
    {s t : State} (h : SameButWork s t) (haddr : t.work.addr = s.work.addr) (hlen : t.work.len = s.work.len) :
    SameButWork (slicedTransfer z act s) (slicedTransfer z act t) := by
  have hblocks : SameButWork (afterBlocks z act s) (afterBlocks z act t) := by
    unfold afterBlocks
    rw [hlen]
    exact blockLoop_sameButWork (hact z) (hkept z) z _ (h.withWork _ _) haddr rfl
  obtain ⟨ks, hs, -⟩ := afterBlocks_kept z hkept s
  obtain ⟨kt, ht, -⟩ := afterBlocks_kept z hkept t
  unfold slicedTransfer
  rw [hlen]
  refine tailLoop_sameButWork (hact 1#32) (hkept 1#32) z _ (hblocks.withWork _ _) ?_ ?_ rfl
  · rw [setK_work, setK_work]
    exact kt.addr.trans (haddr.trans ks.addr.symm)
  · rw [setK_work, setK_work]
    exact ht.trans ((congrArg (· / z) hlen).trans hs.symm)

theorem eerd_sameButWork {s t : State} (h : SameButWork s t) (haddr : t.work.addr = s.work.addr)
    (hlen : t.work.len = s.work.len) : SameButWork (eerd s) (eerd t) := by
  rw [eerd_eq, eerd_eq]
  exact slicedTransfer_sameButWork _ (fun n _ _ => readAt_sameButWork n) readAt_kept h haddr hlen

theorem eewr_sameButWork {s t : State} (h : SameButWork s t) (haddr : t.work.addr = s.work.addr)
    (hlen : t.work.len = s.work.len) : SameButWork (eewr s) (eewr t) := by
  rw [eewr_eq, eewr_eq]
  exact slicedTransfer_sameButWork _ (fun n _ _ => writeAt_sameButWork n) writeAt_kept h haddr hlen

theorem eerd1_sameButWork {s t : State} (h : SameButWork s t) (haddr : t.work.addr = s.work.addr)
    (hlen : t.work.len = s.work.len) : SameButWork (eerd1 s) (eerd1 t) := by
  simp only [eerd1, setK_work, hlen]
  exact byteLoop_sameButWork _ (h.withWork _ _) haddr rfl

/-- A command reads the latched operands and no other register it has not written. -/
theorem commandBody_sameButWork (i : Instr) {s t : State} (h : SameButWork s t) (haddr : t.work.addr = s.work.addr)
    (hlen : t.work.len = s.work.len) : SameButWork (commandBody i s) (commandBody i t) := by
  have hinit := busInit_sameButWork h
  have hinitAddr : (busInit t).work.addr = (busInit s).work.addr := haddr
  have hinitLen : (busInit t).work.len = (busInit s).work.len := hlen
  cases i with
  | init _ _ => exact hinit
  | read _ _ => exact eerd_sameButWork hinit hinitAddr hinitLen
  | write _ _ => exact eewr_sameButWork hinit hinitAddr hinitLen
  | dump _ _ =>
    obtain ⟨w, rfl⟩ := h.exists_withWork
    rfl
  | busw _ _ =>
    simp only [commandBody, haddr, hlen]
    exact busw_sameButWork _ _ _ h
  | busr _ _ =>
    simp only [commandBody, hlen]
    exact busr_sameButWork _ _ h
  | eerd _ _ => exact eerd_sameButWork h haddr hlen
  | eerd1 _ _ => exact eerd1_sameButWork h haddr hlen
  | eewr _ _ => exact eewr_sameButWork h haddr hlen

/-- Settles O46: both runs start from the same latched operands. -/
theorem workingRegistersCarryNothing : Obligations.WorkingRegistersCarryNothing := by
  intro i s w h
  have hw : Accepts i (s.withWork w) := h
  refine ⟨_, _, exec_accepts h, exec_accepts hw, ?_⟩
  have hlatch : SameButWork (latch i s) (latch i (s.withWork w)) := (sameButWork_withWork s w).withWork _ _
  exact (commandBody_sameButWork i hlatch rfl rfl).withRun _

end Sys2Proof.Machine
end

section
/-! PROOFS. A command as a run of micro-steps (R24, R25, R116): the walks of the MAPPER's loops and of BUS_INIT, joined
to those of the transactions. -/

namespace Sys2Proof.Machine

/-- The caller `c` runs its slices in the loops over blocks of `z` bytes, as EERD and EEWR do. -/
structure LoopsOver (z : Word) (c : SelectCaller) : Prop where
  next : ∀ s, afterSlice c s = nextSlice z c s
  payload : ∀ n s, payloadOf z s = n → PayloadIs c n s
  ok : ∀ s, SliceOk z s → c.Ok s

theorem loopsOver_read : LoopsOver Config.rdBlock (.reading .read) := ⟨fun _ => rfl, fun _ _ h => h, fun _ h => h⟩
theorem loopsOver_eerd : LoopsOver Config.rdBlock (.reading .eerd) := ⟨fun _ => rfl, fun _ _ h => h, fun _ h => h⟩
theorem loopsOver_writing (w : WriteCaller) : LoopsOver Config.wrBlock (.writing w) :=
  ⟨fun _ => rfl, fun _ _ h => h, fun _ h => h⟩

theorem sliceBody_kept (c : SelectCaller) (n : Word) (s : State) : KeptLoop s (sliceBody c n s) := by
  cases c
  · exact readAt_kept n s
  · exact writeAt_kept n s

/-- The block loop, from its head to the head of the tail loop. -/
theorem blockLoop_steps {z : Word} {c : SelectCaller} (hl : LoopsOver z c) (n : Nat) (s : State)
    (hc : DividerOk s.cfg) (hn : s.work.b.toNat + n = s.work.nblk.toNat) :
    Steps (blockHead z c s) (tailHead z c ((blockLoop z (sliceBody c z) n s).setK 0#32)) := by
  induction n generalizing s with
  | zero =>
    unfold blockHead
    rw [if_neg (by rw [BitVec.lt_def]; omega)]
    exact .refl
  | succ n ih =>
    have hlt : s.work.b < s.work.nblk := by rw [BitVec.lt_def]; omega
    have k := (KeptLoop.sliceOfBlock s z).trans (sliceBody_kept c z (sliceOfBlock z s))
    have hslice := slice_steps c z (sliceOfBlock z s) hc (hl.payload _ _ (if_pos hlt))
    rw [hl.next, nextSlice, k.b, k.nblk, if_pos hlt, ← k.b] at hslice
    unfold blockHead
    rw [if_pos hlt]
    refine hslice.trans (ih _ ?_ ?_)
    · rw [setB_cfg, k.cfg]; exact hc
    · rw [setB_work]
      show (_ + 1#32).toNat + n = _
      rw [k.b, k.nblk]
      bv_omega

/-- The tail loop, from its head to the end of the command. -/
theorem tailLoop_steps {z : Word} {c : SelectCaller} (hl : LoopsOver z c) (n : Nat) (s : State)
    (hc : DividerOk s.cfg) (hb : s.work.b = s.work.nblk) (hn : s.work.k.toNat + n = s.work.rem.toNat) :
    Steps (tailHead z c s) (finish (tailLoop z (sliceBody c 1#32) n s)) := by
  induction n generalizing s with
  | zero =>
    unfold tailHead
    rw [if_neg (by rw [BitVec.lt_def]; omega)]
    exact .refl
  | succ n ih =>
    have hlt : s.work.k < s.work.rem := by rw [BitVec.lt_def]; omega
    have hnb : ¬s.work.b < s.work.nblk := by rw [hb, BitVec.lt_def]; omega
    have k := (KeptLoop.sliceOfTail s z).trans (sliceBody_kept c 1#32 (sliceOfTail z s))
    have hslice := slice_steps c 1#32 (sliceOfTail z s) hc (hl.payload _ _ (if_neg hnb))
    rw [hl.next, nextSlice, k.b, k.nblk, if_neg hnb] at hslice
    unfold tailHead
    rw [if_pos hlt]
    refine hslice.trans (ih _ ?_ ?_ ?_)
    · rw [setK_cfg, k.cfg]; exact hc
    · rw [setK_work]
      exact (k.b.trans hb).trans k.nblk.symm
    · rw [setK_work]
      show (_ + 1#32).toNat + n = _
      rw [k.k, k.rem]
      bv_omega

/-- EERD or EEWR, from the start of its block loop to its end. -/
theorem slicedTransfer_steps {z : Word} {c : SelectCaller} (hl : LoopsOver z c) (s : State) (hc : DividerOk s.cfg) :
    Steps (blockHead z c ((splitLength z s).setB 0#32)) (finish (slicedTransfer z (sliceBody c) s)) := by
  obtain ⟨k, hnblk, hrem, hb⟩ := afterBlocks_kept z (sliceBody_kept c) s
  have hblocks : Steps _ (tailHead z c ((afterBlocks z (sliceBody c) s).setK 0#32)) :=
    blockLoop_steps hl (s.work.len / z).toNat ((splitLength z s).setB 0#32) hc (by simp)
  refine hblocks.trans (tailLoop_steps hl _ _ ?_ ?_ ?_)
  · rw [setK_cfg, k.cfg]; exact hc
  · rw [setK_work]
    exact hb.trans hnblk.symm
  · rw [setK_work, hrem]
    exact Nat.zero_add _

theorem eerd_steps {r : ReadCaller} (hl : LoopsOver Config.rdBlock (.reading r)) (s : State) (hc : DividerOk s.cfg) :
    Steps (startEerd r s) (none, eerd s) :=
  eerd_eq s ▸ slicedTransfer_steps hl s hc

theorem eewr_steps (w : WriteCaller) (s : State) (hc : DividerOk s.cfg) : Steps (startEewr w s) (none, eewr s) :=
  eewr_eq s ▸ slicedTransfer_steps (loopsOver_writing w) s hc

/-- EERD1's loop, from its head to the end of the command. -/
theorem byteLoop_steps (n : Nat) (s : State) (hc : DividerOk s.cfg)
    (hn : s.work.k.toNat + n = s.work.len.toNat) : Steps (byteHead s) (finish (byteLoop n s)) := by
  induction n generalizing s with
  | zero =>
    unfold byteHead
    rw [if_neg (by rw [BitVec.lt_def]; omega)]
    exact .refl
  | succ n ih =>
    have k := (KeptLoop.sliceOfByte s).trans (sliceBody_kept (.reading .eerd1) 1#32 (sliceOfByte s))
    have hslice := slice_steps (.reading .eerd1) 1#32 (sliceOfByte s) hc rfl
    unfold byteHead
    rw [if_pos (by rw [BitVec.lt_def]; omega)]
    refine hslice.trans (ih _ ?_ ?_)
    · rw [setK_cfg, k.cfg]; exact hc
    · rw [setK_work]
      show (_ + 1#32).toNat + n = _
      rw [k.k, k.len]
      bv_omega

theorem resetPulse_steps (c : InitCaller) (s : State) :
    Steps (goto (.busInit c .i1) s) (goto (.busInit c .i5) (resetPulse s)) :=
  .head ⟨_, rfl, rfl⟩ (.head ⟨_, rfl, rfl⟩ (.head ⟨_, rfl, rfl⟩ (.single ⟨_, rfl, rfl⟩)))

theorem writeDefaults_steps (c : InitCaller) (s : State) :
    Steps (goto (.busInit c .i5) s) (returnInit c (writeDefaults s)) :=
  .head ⟨_, rfl, rfl⟩ (.head ⟨_, rfl, rfl⟩ (.single ⟨_, rfl, rfl⟩))

/-- BUS_INIT's seven events. -/
theorem busInit_steps (c : InitCaller) (s : State) :
    Steps (goto (.busInit c .i1) s) (returnInit c (busInit s)) :=
  (resetPulse_steps c s).trans (writeDefaults_steps c (resetPulse s))

theorem dividerOk_of_valid {c : Config} (hv : c.Valid) : DividerOk c := by
  obtain ⟨-, hdiv, -⟩ := hv
  exact hdiv

/-- Every command's walk ends in the state of its body. -/
theorem commandBody_steps (i : Instr) (s : State) (hc : DividerOk s.cfg) (haddr : s.work.addr = i.address)
    (hlen : s.work.len = i.length) : Steps (start i s) (none, commandBody i s) := by
  have hinit : DividerOk (busInit s).cfg := by rw [busInit_cfg]; exact hc
  cases i with
  | init _ _ => exact busInit_steps .init s
  | read _ _ => exact (busInit_steps .read s).trans (eerd_steps loopsOver_read _ hinit)
  | write _ _ => exact (busInit_steps .write s).trans (eewr_steps .write _ hinit)
  | dump _ _ => exact .single ⟨_, rfl, rfl⟩
  | busw _ _ => exact busw_steps .command _ _ _ s hc
  | busr _ _ => exact busr_steps .command _ _ s hc
  | eerd _ _ => exact eerd_steps loopsOver_eerd s hc
  | eerd1 _ _ => exact byteLoop_steps s.work.len.toNat (s.setK 0#32) hc (by simp)
  | eewr _ _ => exact eewr_steps .eewr s hc

/-- Settles O51: acceptance stands at the start of the command's walk, and the machine's steps follow the walk. -/
theorem commandsAreRunsOfMicroSteps : Obligations.CommandsAreRunsOfMicroSteps := by
  intro i s t h
  obtain ⟨⟨hvalid, -, -⟩, rfl⟩ := exec_next h
  have hpending : pending none (latch i s) =
      ((start i (latch i s)).1, (start i (latch i s)).2.withRun (start i (latch i s)).2.run) := dispatch_latch i s
  exact run_of_steps (commandBody_steps i (latch i s) (dividerOk_of_valid hvalid) rfl rfl) none (latch i s) _ hvalid hpending

end Sys2Proof.Machine
end

section
/-! PROOFS. The invariant (R25, R68): where a walk stands, its entry from each statement, and the step that keeps it. -/

namespace Sys2Proof.Machine

/-- A walk stands where the invariant wants it: the loop registers are as the next event needs them. -/
def WalkOk (p : Walk) : Prop := Static p.2 ∧ ∀ u, p.1 = some u → u.Ok p.2

theorem WalkOk.goto {u : Upc} {s : State} (hs : Static s) (hu : u.Ok s) : WalkOk (goto u s) :=
  ⟨hs, fun _ h => Option.some.inj h ▸ hu⟩

theorem WalkOk.finish {s : State} (hs : Static s) : WalkOk (finish s) := ⟨hs, fun _ h => nomatch h⟩

/-- A write of working registers other than `PAGE`. -/
theorem Static.withWork {s : State} (h : Static s) (w : Work) (hp : w.page = s.work.page) : Static (s.withWork w) :=
  h.congr rfl rfl rfl hp rfl

theorem Static.setJ {s : State} (h : Static s) (v : Word) : Static (s.setJ v) := h.withWork _ rfl

theorem Static.noteTimeout {s : State} (h : Static s) (m : Timeout) : Static (s.noteTimeout m) :=
  h.congr rfl rfl rfl rfl rfl

theorem Static.setPage {s : State} (h : Static s) (a : Word) : Static (s.setPage (shiftedPage a)) :=
  ⟨h.buf, h.shadow, shiftedPage_even a, h.env⟩

/-! ### The current slice is inside the latched length (R68, R134, R139) -/

theorem SliceOk.fits {z : Word} {s : State} (h : SliceOk z s) :
    s.work.bo.toNat + (payloadOf z s).toNat ≤ s.cfg.bufSize := by
  obtain ⟨hlen, hnblk, hrem, ⟨hb, hbo⟩ | ⟨hb, hk, hbo⟩⟩ := h
  · have hn : s.work.b.toNat + 1 ≤ s.work.len.toNat / z.toNat := by
      rw [hnblk, BitVec.lt_def, BitVec.toNat_udiv] at hb
      exact hb
    have hend : z.toNat * s.work.b.toNat + z.toNat ≤ s.work.len.toNat :=
      (Nat.mul_le_mul_left z.toNat hn).trans (Nat.mul_div_le _ _)
    have hlt := s.work.len.isLt
    rw [payloadOf, if_pos hb, hbo, BitVec.toNat_mul, Nat.mod_eq_of_lt (by omega)]
    omega
  · have hk' : s.work.k.toNat < s.work.len.toNat % z.toNat := by
      rw [hrem, BitVec.lt_def, BitVec.toNat_umod] at hk
      exact hk
    have hdiv := Nat.div_add_mod s.work.len.toNat z.toNat
    have hlt := s.work.len.isLt
    have hone : payloadOf z s = 1#32 := if_neg (by rw [hb, BitVec.lt_def]; omega)
    rw [hone, hbo, hnblk, BitVec.toNat_add, BitVec.toNat_mul, BitVec.toNat_udiv,
      Nat.mod_eq_of_lt (a := z.toNat * _) (by omega), Nat.mod_eq_of_lt (by omega)]
    show _ + 1 ≤ _
    omega

theorem payloadOf_pos {z : Word} (hz : 0 < z.toNat) (s : State) : 0 < (payloadOf z s).toNat := by
  unfold payloadOf
  split
  · exact hz
  · decide

theorem ReadCaller.Ok.fits {r : ReadCaller} {s : State} (h : r.Ok s) :
    s.work.bo.toNat + (readPayload r s).toNat ≤ s.cfg.bufSize ∧ 0 < (readPayload r s).toNat := by
  cases r with
  | read => exact ⟨SliceOk.fits h, payloadOf_pos (by decide) s⟩
  | eerd => exact ⟨SliceOk.fits h, payloadOf_pos (by decide) s⟩
  | eerd1 =>
    obtain ⟨hlen, hk, hbo⟩ := h
    rw [BitVec.lt_def] at hk
    rw [hbo]
    exact ⟨by show _ + 1 ≤ _; omega, Nat.one_pos⟩

/-- A read stays inside BUF and has at least one byte (R37, R68, R78). -/
theorem BusrCaller.Ok.fits {c : BusrCaller} {s : State} (h : c.Ok s) :
    s.work.bo.toNat + s.work.tn.toNat ≤ s.cfg.bufSize ∧ 0 < s.work.tn.toNat := by
  cases c with
  | command =>
    obtain ⟨hbo, htn, hne⟩ := h
    rw [hbo]
    exact ⟨by simpa using htn, by bv_omega⟩
  | reading r =>
    obtain ⟨hr, htn⟩ := h
    rw [htn]
    exact hr.fits

/-- The payload of a write fits BUF. -/
theorem BuswCaller.Ok.fits {c : BuswCaller} {s : State} (h : c.Ok s) : s.work.tn.toNat ≤ s.cfg.bufSize := by
  cases c with
  | command => exact h.2
  | reading r => rw [h.2]; exact Nat.zero_le _
  | writing w =>
    obtain ⟨hslice, htn⟩ := h
    rw [htn]
    exact (Nat.le_add_left _ _).trans hslice.fits

/-! ### Every event is legal where it stands (R28 to R37) -/

theorem addrWord_toNat {c : Config} (hv : c.Valid) : c.addrWord.toNat = c.addrBytes := by
  obtain ⟨ha, -⟩ := hv
  rcases ha with ha | ha <;> simp [Config.addrWord, ha]

/-- The byte count of a write transaction does not wrap (R37, R101). -/
theorem total_toNat {c : Config} (hv : c.Valid) {tn : Word} (h : tn.toNat ≤ c.bufSize) :
    (tn + c.addrWord - 1#32).toNat = tn.toNat + c.addrBytes - 1 := by
  have ha := addrWord_toNat hv
  obtain ⟨hab, -, ⟨-, hsize⟩, -⟩ := hv
  bv_omega

/-- A write that stands where the invariant wants it writes a legal value. -/
theorem event_static {u : Upc} {s : State} (hv : s.cfg.Valid) (hs : Static s) (hu : u.Ok s) : Static (event u s) := by
  rcases u with ⟨c, l⟩ | c | ⟨c, l⟩ | ⟨c, l⟩ | c | _
  · cases l with
    | i1 => exact busRead_static hs _
    | i2 => exact busWrite_static hs trivial
    | i3 => exact controllerReset_static (busWrite_static hs trivial)
    | i4 => exact hs.congr rfl rfl rfl rfl rfl
    | i5 => exact busWrite_static hs rfl
    | i6 => exact busWrite_static hs rfl
    | i7 => exact busWrite_static hs ⟨⟨0#3, rfl⟩, fun _ => rfl⟩
  · have h1 : s.cfg.addrBytes = 1 := hu.2
    exact busWrite_static hs ⟨deviceAddress_legal _ hs.page, fun h2 => by omega⟩
  · obtain ⟨hc, htot, -⟩ := hu
    cases l with
    | w1 =>
      refine busWrite_static hs ?_
      show (s.work.tot - 1#32).toNat ≤ _
      rw [htot, total_toNat hv hc.fits]
      have := hc.fits
      omega
    | w2 => exact busWrite_static hs (firstByte_legal s _)
    | w3 => exact busWrite_static hs (.inl rfl)
    | w4 => exact busRead_static hs _
    | w5 => exact busWrite_static hs (nextByte_legal s _)
    | w6 => exact busRead_static hs _
  · obtain ⟨hc, -⟩ := hu
    cases l with
    | r1 =>
      refine busWrite_static hs ?_
      show (s.work.tn - 1#32).toNat ≤ _
      obtain ⟨hfit, hpos⟩ := hc.fits
      bv_omega
    | r2 => exact busWrite_static hs (.inr rfl)
    | r3 => exact busRead_static hs _
    | r4 => exact busRead_static hs _
    | r5 => exact busRead_static hs _
  · exact hs.congr rfl rfl rfl rfl rfl
  · exact hs.congr rfl rfl rfl rfl rfl

/-- An event writes no register the loops stand in. -/
theorem upcOk_event {u : Upc} {s : State} (hu : u.Ok s) : u.Ok (event u s) := by
  obtain ⟨_, _, _, _, _, -, h⟩ := event_spec u s
  rw [h]
  cases u <;> exact hu

/-! ### Where a walk stands (R25) -/

/-- BUSW is entered with its arguments in their registers. -/
theorem enterTransaction_ok {c : SelectCaller} {n : Word} {s : State} (hs : Static s) (hc : c.Ok s)
    (hn : ∀ w, c = .writing w → payloadOf Config.wrBlock s = n) : WalkOk (enterTransaction c n s) := by
  cases c with
  | reading r =>
    refine .goto (hs.withWork _ rfl) ⟨⟨?_, rfl⟩, rfl, trivial⟩
    cases r <;> exact hc
  | writing w => exact .goto (hs.withWork _ rfl) ⟨⟨hc, (hn w rfl).symm⟩, rfl, trivial⟩

theorem enterSelect_ok {c : SelectCaller} {n : Word} {s : State} (hs : Static s) (hc : c.Ok s)
    (hn : PayloadIs c n s) : WalkOk (enterSelect c n s) := by
  unfold enterSelect
  split
  · next ha =>
    refine .goto (hs.setPage _) ⟨?_, ha⟩
    rcases c with r | w
    · cases r <;> exact hc
    · exact hc
  · exact enterTransaction_ok hs hc (by rintro w rfl; exact hn)

/-- Between two slices: the latched length fits BUF and the block counts are those of R134 or R139. -/
structure LengthSplit (z : Word) (s : State) : Prop where
  len : s.work.len.toNat ≤ s.cfg.bufSize
  nblk : s.work.nblk = s.work.len / z
  rem : s.work.rem = s.work.len % z

theorem tailHead_ok {z : Word} {c : SelectCaller} (hl : LoopsOver z c) {s : State} (hs : Static s)
    (hsplit : LengthSplit z s) (hb : s.work.b = s.work.nblk) : WalkOk (tailHead z c s) := by
  obtain ⟨hlen, hnblk, hrem⟩ := hsplit
  unfold tailHead
  split
  · next hk =>
    have hnb : ¬s.work.b < s.work.nblk := by rw [hb, BitVec.lt_def]; omega
    exact enterSelect_ok (hs.withWork _ rfl) (hl.ok _ ⟨hlen, hnblk, hrem, .inr ⟨hb, hk, rfl⟩⟩)
      (hl.payload _ _ (if_neg hnb))
  · exact .finish hs

theorem blockHead_ok {z : Word} {c : SelectCaller} (hl : LoopsOver z c) {s : State} (hs : Static s)
    (hsplit : LengthSplit z s) (hb : s.work.b ≤ s.work.nblk) : WalkOk (blockHead z c s) := by
  obtain ⟨hlen, hnblk, hrem⟩ := hsplit
  unfold blockHead
  split
  · next hlt =>
    exact enterSelect_ok (hs.withWork _ rfl) (hl.ok _ ⟨hlen, hnblk, hrem, .inl ⟨hlt, rfl⟩⟩)
      (hl.payload _ _ (if_pos hlt))
  · next hlt =>
    have hend : s.work.b = s.work.nblk := by bv_omega
    exact tailHead_ok hl (hs.withWork _ rfl) ⟨hlen, hnblk, hrem⟩ hend

theorem nextSlice_ok {z : Word} {c : SelectCaller} (hl : LoopsOver z c) {s : State} (hs : Static s)
    (hslice : SliceOk z s) : WalkOk (nextSlice z c s) := by
  obtain ⟨hlen, hnblk, hrem, hpos⟩ := hslice
  unfold nextSlice
  split
  · next hlt =>
    refine blockHead_ok hl (hs.withWork _ rfl) ⟨hlen, hnblk, hrem⟩ ?_
    show s.work.b + 1#32 ≤ s.work.nblk
    bv_omega
  · next hlt =>
    refine tailHead_ok hl (hs.withWork _ rfl) ⟨hlen, hnblk, hrem⟩ ?_
    rcases hpos with ⟨hb, -⟩ | ⟨hb, -⟩
    · exact absurd hb hlt
    · exact hb

/-- EERD and EEWR begin with a split of the latched length. -/
theorem startBlocks_ok {z : Word} {c : SelectCaller} (hl : LoopsOver z c) {s : State} (hs : Static s)
    (hlen : s.work.len.toNat ≤ s.cfg.bufSize) : WalkOk (blockHead z c ((splitLength z s).setB 0#32)) :=
  blockHead_ok hl (hs.withWork _ rfl) ⟨hlen, rfl, rfl⟩ (Nat.zero_le _)

theorem byteHead_ok {s : State} (hs : Static s) (hlen : s.work.len.toNat ≤ s.cfg.bufSize) :
    WalkOk (byteHead s) := by
  unfold byteHead
  split
  · next hk => exact enterSelect_ok (hs.withWork _ rfl) ⟨hlen, hk, rfl⟩ rfl
  · exact .finish hs

theorem returnBusw_ok {c : BuswCaller} {s : State} (hs : Static s) (hc : c.Ok s) : WalkOk (returnBusw c s) := by
  cases c with
  | command => exact .finish hs
  | reading r =>
    refine .goto (hs.withWork _ rfl) ⟨⟨?_, ?_⟩, trivial⟩
    · cases r <;> exact hc.1
    · cases r <;> rfl
  | writing w => exact .goto hs hc.1

theorem returnBusr_ok {c : BusrCaller} {s : State} (hs : Static s) (hc : c.Ok s) : WalkOk (returnBusr c s) := by
  rcases c with _ | r
  · exact .finish hs
  · cases r with
    | read => exact nextSlice_ok loopsOver_read hs hc.1
    | eerd => exact nextSlice_ok loopsOver_eerd hs hc.1
    | eerd1 => exact byteHead_ok (hs.withWork _ rfl) hc.1.1

/-- BUSW's callers do not look at the loop registers `I` and `J`, nor at `V`. -/
theorem BuswCaller.Ok.withWork {c : BuswCaller} {s : State} (hc : c.Ok s) (i j : Word) :
    c.Ok (s.withWork { s.work with i := i, j := j }) := by
  rcases c with _ | r | w
  · exact hc
  · cases r <;> exact hc
  · exact hc

theorem BusrCaller.Ok.withWork {c : BusrCaller} {s : State} (hc : c.Ok s) (i j : Word) :
    c.Ok (s.withWork { s.work with i := i, j := j }) := by
  rcases c with _ | r
  · exact hc
  · cases r <;> exact hc

theorem buswHead_ok {c : BuswCaller} {s : State} (hv : s.cfg.Valid) (hs : Static s) (hc : c.Ok s)
    (htot : s.work.tot = s.work.tn + s.cfg.addrWord) : WalkOk (buswHead c s) := by
  have hdiv := dividerOk_of_valid hv
  unfold buswHead
  split
  · next hi => exact .goto (hs.withWork _ rfl) ⟨hc.withWork s.work.i 0#32, htot, hi, hdiv.maxBusyLoop.1⟩
  · exact .goto (hs.withWork _ rfl) ⟨hc.withWork s.work.i 0#32, htot, hdiv.busyLoop.1⟩

theorem busrHead_ok {c : BusrCaller} {s : State} (hv : s.cfg.Valid) (hs : Static s) (hc : c.Ok s) :
    WalkOk (busrHead c s) := by
  have hdiv := dividerOk_of_valid hv
  unfold busrHead
  split
  · next hi => exact .goto (hs.withWork _ rfl) ⟨hc.withWork s.work.i 0#32, hi, hdiv.maxBusyLoop.1⟩
  · exact .goto (hs.withWork _ rfl) ⟨hc.withWork s.work.i 0#32, hdiv.busyLoop.1⟩

/-- After a sample: a hit and the last miss go on where the invariant wants it, and so does another sample, with `J`
still below the bound. -/
theorem afterSample_ok {test : Word → Bool} {bound : Nat} {hit out again : State → Walk} {s : State}
    (hj : s.work.j.toNat < bound) (hit_ok : WalkOk (hit s)) (out_ok : WalkOk (out (s.setJ (s.work.j + 1#32))))
    (again_ok : (s.work.j + 1#32).toNat < bound → WalkOk (again (s.setJ (s.work.j + 1#32)))) :
    WalkOk (afterSample test bound hit out again s) := by
  rcases afterSample_cases test bound hit out again s with ⟨-, e⟩ | ⟨-, -, e⟩ | ⟨-, hne, e⟩ <;> rw [e]
  · exact hit_ok
  · exact out_ok
  · exact again_ok (by bv_omega)

theorem afterBusw_ok {c : BuswCaller} {l : BuswLabel} {s : State} (hv : s.cfg.Valid) (hs : Static s)
    (hu : (Upc.busw c l).Ok s) : WalkOk (afterBusw c l s) := by
  obtain ⟨hc, htot, hl⟩ := hu
  cases l with
  | w1 => exact .goto hs ⟨hc, htot, trivial⟩
  | w2 => exact .goto hs ⟨hc, htot, trivial⟩
  | w3 => exact buswHead_ok hv (hs.withWork _ rfl) (hc.withWork 0#32 s.work.j) htot
  | w4 =>
    obtain ⟨hi, hj⟩ := hl
    have hc' := hc.withWork s.work.i (s.work.j + 1#32)
    exact afterSample_ok hj (.goto hs ⟨hc, htot, hi⟩)
      (buswHead_ok hv (((hs.setJ _).noteTimeout _).withWork _ rfl)
        (hc.withWork (s.work.i + 1#32) (s.work.j + 1#32)) htot)
      (fun h => .goto (hs.withWork _ rfl) ⟨hc', htot, hi, h⟩)
  | w5 => exact buswHead_ok hv (hs.withWork _ rfl) (hc.withWork _ s.work.j) htot
  | w6 =>
    have hc' := hc.withWork s.work.i (s.work.j + 1#32)
    exact afterSample_ok hl (returnBusw_ok hs hc) (returnBusw_ok ((hs.setJ _).noteTimeout _) hc')
      (fun h => .goto (hs.withWork _ rfl) ⟨hc', htot, h⟩)

theorem afterBusr_ok {c : BusrCaller} {l : BusrLabel} {s : State} (hv : s.cfg.Valid) (hs : Static s)
    (hu : (Upc.busr c l).Ok s) : WalkOk (afterBusr c l s) := by
  obtain ⟨hc, hl⟩ := hu
  cases l with
  | r1 => exact .goto hs ⟨hc, trivial⟩
  | r2 => exact busrHead_ok hv (hs.withWork _ rfl) (hc.withWork 0#32 s.work.j)
  | r3 =>
    obtain ⟨hi, hj⟩ := hl
    have hc' := hc.withWork s.work.i (s.work.j + 1#32)
    exact afterSample_ok hj (.goto hs ⟨hc, hi⟩)
      (busrHead_ok hv (((hs.setJ _).noteTimeout _).withWork _ rfl)
        (hc.withWork (s.work.i + 1#32) (s.work.j + 1#32)))
      (fun h => .goto (hs.withWork _ rfl) ⟨hc', hi, h⟩)
  | r4 =>
    have hi : s.work.i < s.work.tn := hl
    have hstore : (s.work.bo + s.work.i).toNat < s.cfg.bufSize := by
      obtain ⟨hfit, -⟩ := hc.fits
      bv_omega
    exact busrHead_ok hv ((bufStore_static hs _ hstore).withWork _ rfl) (hc.withWork _ s.work.j)
  | r5 =>
    have hc' := hc.withWork s.work.i (s.work.j + 1#32)
    exact afterSample_ok hl (returnBusr_ok hs hc) (returnBusr_ok ((hs.setJ _).noteTimeout _) hc')
      (fun h => .goto (hs.withWork _ rfl) ⟨hc', h⟩)

theorem afterInit_ok {c : InitCaller} {l : InitLabel} {s : State} (hs : Static s)
    (hu : (Upc.busInit c l).Ok s) : WalkOk (afterInit c l s) := by
  cases l
  case i7 =>
    cases c with
    | init => exact .finish hs
    | read => exact startBlocks_ok loopsOver_read hs hu
    | write => exact startBlocks_ok (loopsOver_writing .write) hs hu
  all_goals
    refine .goto hs ?_
    cases c <;> exact hu

/-- From the event of a statement to the next one. -/
theorem after_ok {u : Upc} {s : State} (hv : s.cfg.Valid) (hs : Static s) (hu : u.Ok s) : WalkOk (after u s) := by
  cases u with
  | busInit c l => exact afterInit_ok hs hu
  | select c => exact enterTransaction_ok hs hu.1 (fun _ _ => rfl)
  | busw c l => exact afterBusw_ok hv hs hu
  | busr c l => exact afterBusr_ok hv hs hu
  | writeDelay w => exact nextSlice_ok (loopsOver_writing w) hs hu
  | report => exact .finish hs

/-- BUF has at least 16 bytes (R7). -/
theorem bufSize_of_valid {c : Config} (hv : c.Valid) : 16 ≤ c.bufSize := by
  obtain ⟨-, -, ⟨hsize, -⟩, -⟩ := hv
  exact hsize

/-- A well-formed length fits BUF, WRITE's because BUF has at least 16 bytes (R7, R77, R78). -/
theorem length_fits {c : Config} (hv : c.Valid) {n : Word}
    (h : Instr.fitsBuf c n = true ∨ Instr.legalWriteSize n = true) : n.toNat ≤ c.bufSize := by
  have hsize := bufSize_of_valid hv
  rcases h with h | h
  · simpa [Instr.fitsBuf] using h
  · have hn : n = 1#32 ∨ n = 2#32 ∨ n = 4#32 := by simpa [Instr.legalWriteSize, or_assoc] using h
    rcases hn with rfl | rfl | rfl <;> simp <;> omega

/-- From acceptance to the first statement (R71). -/
theorem start_ok {i : Instr} {s : State} (h : Accepts i s) (hs : Static s) : WalkOk (start i (latch i s)) := by
  obtain ⟨hv, -, hw⟩ := h
  have hlatch : Static (latch i s) := hs.withWork _ rfl
  cases i with
  | init a n => exact .goto hlatch trivial
  | read a n => exact .goto hlatch (length_fits hv (n := n) (.inl hw))
  | write a n => exact .goto hlatch (length_fits hv (n := n) (.inr hw))
  | dump a n => exact .goto hlatch trivial
  | busw a n => exact .goto (hlatch.withWork _ rfl) ⟨⟨rfl, length_fits hv (n := n) (.inl hw)⟩, rfl, trivial⟩
  | busr a n =>
    obtain ⟨hne, hfit⟩ : n ≠ 0#32 ∧ Instr.fitsBuf s.cfg n = true := by simpa [Instr.wellFormed] using hw
    exact .goto (hlatch.withWork _ rfl) ⟨⟨rfl, length_fits hv (.inl hfit), hne⟩, trivial⟩
  | eerd a n => exact startBlocks_ok loopsOver_eerd hlatch (length_fits hv (n := n) (.inl hw))
  | eerd1 a n => exact byteHead_ok (hlatch.withWork _ rfl) (length_fits hv (n := n) (.inl hw))
  | eewr a n => exact startBlocks_ok (loopsOver_writing .eewr) hlatch (length_fits hv (n := n) (.inl hw))

/-! ### Every step keeps the invariant -/

/-- The invariant of an idle state is its part that does not speak of `upc`. -/
theorem Static.inv {s : State} (h : Static s) (hr : s.run = .idle) : s.Inv :=
  ⟨h.buf, h.shadow, h.page, h.env, fun u last hb => by rw [hr] at hb; cases hb⟩

theorem State.Inv.static {s : State} (h : s.Inv) : Static s := ⟨h.buf, h.shadow, h.page, h.env⟩

theorem Static.withRun {s : State} (h : Static s) (r : Run) : Static (s.withRun r) :=
  h.congr rfl rfl rfl rfl rfl

/-- No statement's condition looks at `RUN`. -/
theorem upcOk_withRun {u : Upc} {s : State} (hu : u.Ok s) (r : Run) : u.Ok (s.withRun r) := by
  cases u <;> exact hu

/-- The end of a step or of acceptance, where the walk to the next event stands well. -/
theorem proceed_inv {last : Option Upc} {s : State} (hs : Static s) (hw : WalkOk (pending last s)) :
    (proceed last s).Inv := by
  obtain ⟨hstatic, hu⟩ := hw
  cases hp : (pending last s).1 with
  | none =>
    rw [proceed_idle hp]
    exact (hstatic.withRun _).inv rfl
  | some u =>
    obtain ⟨e, e2⟩ := proceed_busy hp
    have hs' : Static (proceed last s) := by rw [e]; exact hs.withRun _
    refine ⟨hs'.buf, hs'.shadow, hs'.page, hs'.env, fun v l hrun => ?_⟩
    rw [e] at hrun
    cases hrun
    rw [e2]
    exact ⟨rfl, hstatic.buf, hstatic.page, upcOk_withRun (hu u hp) _⟩

/-- A micro-step: the updates still to come, the event, the way on (R25). -/
theorem microStep_inv {s : State} {u : Upc} {last : Option Upc} (h : s.Inv) (hv : s.cfg.Valid)
    (hr : s.run = .busy u last) : (microStep u last s).Inv := by
  obtain ⟨-, hbuf, hpage, hu⟩ := h.upc u last hr
  have hm : Static (pending last s).2 := by
    have e := (pending_onward last s).eq
    refine ⟨hbuf, ?_, hpage, ?_⟩
    · rw [e]; exact h.shadow
    · rw [e]; exact h.env
  have hv' : (pending last s).2.cfg.Valid := by rw [pending_cfg]; exact hv
  have he := event_static hv' hm hu
  exact proceed_inv he (after_ok (by rw [event_cfg]; exact hv') he (upcOk_event hu))

theorem accept_inv {i : Instr} {s : State} (h : Accepts i s) (hs : Static s) : (accept i s).Inv := by
  refine proceed_inv (hs.withWork _ rfl) ?_
  show WalkOk (dispatch (latch i s))
  rw [dispatch_latch]
  exact start_ok h hs

/-- The invariant along a run that is `BUSY` until its end. -/
theorem run_inv {k : Nat} {s t : State} (hs : s.Inv) (hrun : Sys2Proof.core.run k s = .next t)
    (hbusy : ∀ j, j < k → ∃ m u last, Sys2Proof.core.run j s = .next m ∧ m.run = .busy u last) : t.Inv := by
  induction k generalizing s with
  | zero => cases hrun; exact hs
  | succ k ih =>
    obtain ⟨_, u, last, hm, hr⟩ := hbusy 0 (Nat.succ_pos k)
    cases hm
    cases hstep : Sys2Proof.core.step s with
    | fault r => cases r
    | refused r => simp only [Host.Core.run, hstep] at hrun; cases hrun
    | next m =>
      have hrunStep : ∀ j, Sys2Proof.core.run (j + 1) s = Sys2Proof.core.run j m := fun j => by
        simp only [Host.Core.run, hstep]
      have hm : m.Inv := by
        have hstep' : step s = .next m := hstep
        have hv := (step_cases hstep').1
        rw [step_busy hv hr] at hstep'
        cases hstep'
        exact microStep_inv hs hv hr
      exact ih hm ((hrunStep k).symm.trans hrun) fun j hj => by
        rw [← hrunStep]
        exact hbusy (j + 1) (by omega)

/-- A whole command keeps the invariant, as the run of its micro-steps. -/
theorem exec_inv {i : Instr} {s t : State} (hs : Static s) (h : exec i s = .next t) : t.Inv := by
  obtain ⟨k, hrun, hbusy⟩ := commandsAreRunsOfMicroSteps i s t h
  exact run_inv (accept_inv (exec_next h).1 hs) hrun hbusy

/-- Settles O53, by the cases of what a step can do. -/
theorem stepKeepsTheInvariant : Obligations.StepKeepsTheInvariant := by
  intro s t hs hstep
  obtain ⟨hv, hcases⟩ := step_cases hstep
  rcases hcases with ⟨u, last, hr, rfl⟩ | ⟨-, -, rfl⟩ | ⟨hr, bytes, rest, -, hlen, rfl⟩ |
    ⟨-, c, rest, i, -, -, hexec⟩
  · exact microStep_inv hs hv hr
  · exact hs
  · obtain ⟨hwf, hbound⟩ := hs.buf
    have hbuf : BufOk ((s.withHost rest).withBuf (Memory.writeList s.buf 0 bytes)) :=
      ⟨Memory.wf_writeList hwf 0 bytes, Memory.bound_writeList hbound 0 bytes (by simpa using hlen)⟩
    exact Static.inv ⟨hbuf, hs.shadow, hs.page, hs.env⟩ hr
  · have hrest : Static (s.withHost rest) := hs.static.congr rfl rfl rfl rfl rfl
    exact exec_inv hrest hexec

/-- Settles O52: BUF is empty, every shadow is `CTRL_RESET` and SEQ is `IDLE`. -/
theorem invariantHoldsAtReset : Obligations.InvariantHoldsAtReset := by
  have hbuf : BufOk State.reset := ⟨reset_buf_wf, fun _ h => nomatch h⟩
  have hshadow : ShadowOk State.reset.cfg State.reset.shadow :=
    ⟨.inl rfl, .inl rfl, .inl rfl, rfl, .inl rfl, .inl rfl, .inl rfl⟩
  exact Static.inv ⟨hbuf, hshadow, rfl, trivial⟩ rfl

end Sys2Proof.Machine
end

section
/-! PROOFS. What one step does (R23 to R25): a micro-step's one event and the updates that wait for the next step, the
moves of HOST, power-on. -/

namespace Sys2Proof.Machine

/-! ### The event of a micro-step, and the updates it leaves (R25) -/

theorem pending_trace (last : Option Upc) (s : State) : (pending last s).2.trace = s.trace := by
  rw [(pending_onward last s).eq]
  rfl

theorem proceed_trace (last : Option Upc) (s : State) : (proceed last s).trace = s.trace := by
  cases h : (pending last s).1 with
  | none => rw [proceed_idle h, State.withRun_trace, pending_trace]
  | some u => rw [(proceed_busy h).1, State.withRun_trace]

/-- Settles O50: the updates before the event and after it leave the TRACE. -/
theorem microStepEmitsTheEventOfItsLabel : Obligations.MicroStepEmitsTheEventOfItsLabel := by
  intro s u last hv hr
  obtain ⟨e, _, _, _, _, hemits, hevent⟩ := event_spec u (pending last s).2
  refine ⟨_, e, step_busy hv hr, ?_, hemits⟩
  rw [microStep, proceed_trace, hevent]
  exact congrArg (· ++ [e]) (pending_trace last s)

/-- Settles O58: the state `m` after the event is the event's own, and the step ends as `proceed` says. -/
theorem updatesBelongToTheStepOfTheLaterEvent : Obligations.UpdatesBelongToTheStepOfTheLaterEvent := by
  intro s u last hv hr
  obtain ⟨e, _, _, _, _, hemits, hevent⟩ := event_spec u (pending last s).2
  refine ⟨_, event u (pending last s).2, e, step_busy hv hr, hemits, ?_, fun v hn => (proceed_busy hn).1,
    proceed_idle⟩
  rw [hevent, ← pending_trace last s]

/-! ### The byte of a DATAIN read (R111) -/

/-- The head of BUSR's byte loop goes on to a STATUS sample, of the next position or of the completion poll. -/
theorem busrHead_eq (c : BusrCaller) (s : State) :
    ∃ l, (l = .r3 ∨ l = .r5) ∧ busrHead c s = goto (.busr c l) (s.setJ 0#32) := by
  unfold busrHead
  split
  · exact ⟨.r3, .inl rfl, rfl⟩
  · exact ⟨.r5, .inr rfl, rfl⟩

/-- Nothing is stored on the way on from a STATUS sample of BUSR. -/
theorem afterStatus_buf (c : BusrCaller) {l : BusrLabel} (hl : l = .r3 ∨ l = .r5) (s : State) :
    (after (.busr c l) s).2.buf = s.buf := by
  rcases hl with rfl | rfl
  · rcases afterSample_cases statusDataReady s.cfg.maxBusyLoop (goto (.busr c .r4))
      (fun t => busrHead c ((t.noteTimeout (.rx t.work.i)).setI (t.work.i + 1#32))) (goto (.busr c .r3)) s with
      ⟨-, e⟩ | ⟨-, -, e⟩ | ⟨-, -, e⟩ <;> simp only [after, afterBusr, e]
    · rfl
    · exact (busrHead_quiet c _).buf
    · rfl
  · rcases afterSample_cases statusIdle s.cfg.busyLoop (returnBusr c) (fun t => returnBusr c (t.noteTimeout .busyR))
      (goto (.busr c .r5)) s with ⟨-, e⟩ | ⟨-, -, e⟩ | ⟨-, -, e⟩ <;> simp only [after, afterBusr, e]
    · exact (returnBusr_quiet c s).buf
    · exact (returnBusr_quiet c _).buf
    · rfl

theorem proceed_buf {last : Option Upc} {s : State} (h : (pending last s).2.buf = s.buf) :
    (proceed last s).buf = s.buf := by
  cases hp : (pending last s).1 with
  | none => rw [proceed_idle hp, State.withRun_buf, h]
  | some u => rw [(proceed_busy hp).1, State.withRun_buf]

theorem event_buf (u : Upc) (s : State) : (event u s).buf = s.buf := by
  obtain ⟨_, _, _, _, _, -, h⟩ := event_spec u s
  rw [h]

/-- The step of a STATUS sample that follows a DATAIN read stores that read's byte and no other. -/
theorem microStep_storesByte (c : BusrCaller) {l : BusrLabel} (hl : l = .r3 ∨ l = .r5) (s : State) :
    (microStep (.busr c l) (some (.busr c .r4)) s).buf =
      (s.bufStore (s.work.bo + s.work.i).toNat s.work.v.lowByte).buf := by
  have hstore : (pending (some (.busr c .r4)) s).2.buf =
      (s.bufStore (s.work.bo + s.work.i).toNat s.work.v.lowByte).buf := (busrHead_quiet c _).buf
  exact (proceed_buf (last := some (.busr c l)) (afterStatus_buf c hl _)).trans ((event_buf _ _).trans hstore)

/-- Settles O59: nothing is to be done before the read, and the store waits for the STATUS sample that follows. -/
theorem datainByteIsStoredByTheNextStep : Obligations.DatainByteIsStoredByTheNextStep := by
  rintro s c v hv hr hready rfl
  have hpending : pending (some (.busr c .r3)) s = goto (.busr c .r4) s := if_pos hready
  obtain ⟨l, hl, hhead⟩ := busrHead_eq c (((busRead .datain s).bufStore (s.work.bo + s.work.i).toNat
    (s.env.answer s.cfg .datain).1.lowByte).setI (s.work.i + 1#32))
  have hnext : (pending (some (.busr c .r4)) (busRead .datain s)).1 = some (.busr c l) := congrArg Prod.fst hhead
  have hstep : step s = .next ((busRead .datain s).withRun (.busy (.busr c l) (some (.busr c .r4)))) := by
    rw [step_busy hv hr, microStep, hpending, ← (proceed_busy hnext).1]
    rfl
  have hbuf := microStep_storesByte c hl ((busRead .datain s).withRun (.busy (.busr c l) (some (.busr c .r4))))
  refine ⟨_, _, _, hstep, rfl, step_busy hv rfl, ?_, fun k hk => ?_⟩
  · rw [State.bufByte_congr hbuf, State.bufByte_bufStore]
    exact if_pos rfl
  · rw [State.bufByte_congr hbuf, State.bufByte_bufStore]
    exact if_neg hk

/-! ### IDLE and power-on (R23, R27, R200) -/

/-- `BUF[i]` after HOST placed `bytes` from index 0 on. -/
theorem bufByte_fill (s : State) (bytes : List Byte) (i : Nat) :
    (s.withBuf (Memory.writeList s.buf 0 bytes)).bufByte i = bytes.getD i (s.bufByte i) := by
  simp only [State.bufByte, State.withBuf_buf, Memory.read_writeList]
  by_cases h : i < bytes.length
  · simp [h]
  · simp [h]

/-- Settles O5, by HOST's move. -/
theorem idleStepWaitsOrFillsBuf : Obligations.IdleStepWaitsOrFillsBuf := by
  intro s hv hr
  rw [step_idle hv hr]
  refine ⟨fun hh => by simp only [idleStep, hh], fun bytes rest hh hlen => ?_⟩
  refine ⟨(s.withHost rest).withBuf (Memory.writeList s.buf 0 bytes), ?_, fun i h => ?_, fun i h => ?_, rfl⟩
  · simp only [idleStep, hh, fillBuf]
    exact if_pos hlen
  · exact (bufByte_fill (s.withHost rest) bytes i).trans (List.getD_eq_getElem _ _ h)
  · exact (bufByte_fill (s.withHost rest) bytes i).trans (List.getD_eq_default _ _ h)

/-- Settles O48: HOST presents nothing at power-on. -/
theorem powerOnSeqIsIdle : Obligations.PowerOnSeqIsIdle :=
  ⟨rfl, rfl, rfl, rfl, step_idle (s := State.reset) (by decide) rfl⟩

/-- A MAPPER operation stands on the stack alone or under READ or WRITE. -/
theorem readCaller_stack_length (c : ReadCaller) : 1 ≤ c.stack.length ∧ c.stack.length ≤ 2 := by
  cases c <;> decide

theorem writeCaller_stack_length (c : WriteCaller) : 1 ≤ c.stack.length ∧ c.stack.length ≤ 2 := by
  cases c <;> decide

/-- Settles O49: at most one procedure, BUSW or BUSR, stands on a MAPPER operation. -/
theorem procedureStackIsAtMostThreeDeep : Obligations.ProcedureStackIsAtMostThreeDeep := by
  intro u
  have onTop : ∀ {ps : List Proc} (p : Proc), ps.length ≤ 2 →
      1 ≤ (ps ++ [p]).length ∧ (ps ++ [p]).length ≤ 3 := fun p h => by simp; omega
  have alone : ∀ {ps : List Proc}, 1 ≤ ps.length ∧ ps.length ≤ 2 → 1 ≤ ps.length ∧ ps.length ≤ 3 :=
    fun h => ⟨h.1, Nat.le_succ_of_le h.2⟩
  rcases u with ⟨_ | _ | _, l⟩ | ⟨r | w⟩ | ⟨_ | r | w, l⟩ | ⟨_ | r, l⟩ | w | _
  case select.reading => exact alone (readCaller_stack_length r)
  case select.writing => exact alone (writeCaller_stack_length w)
  case busw.reading => exact onTop .busw (readCaller_stack_length r).2
  case busw.writing => exact onTop .busw (writeCaller_stack_length w).2
  case busr.reading => exact onTop .busr (readCaller_stack_length r).2
  case writeDelay => exact alone (writeCaller_stack_length w)
  all_goals simp only [Upc.stack, List.length_cons, List.length_nil]; decide

/-! ### Exactly the accepted commands complete (R71, R116) -/

/-- What every command leaves, and that the TRACE and the ghost record only grow. -/
structure Grown (s t : State) : Prop where
  cfg : t.cfg = s.cfg
  host : t.host = s.host
  op : t.work.op = s.work.op
  addr : t.work.addr = s.work.addr
  len : t.work.len = s.work.len
  trace : ∃ evs, t.trace = s.trace ++ evs
  timeouts : ∃ ts, t.timeouts = s.timeouts ++ ts

theorem Kept.grown {s t : State} (h : Kept s t) : Grown s t :=
  ⟨h.cfg, h.host, h.op, h.addr, h.len, h.trace, h.timeouts⟩

theorem busInit_grown (s : State) : Grown s (busInit s) := by
  obtain ⟨e, h⟩ := busInit_spec s
  rw [h]
  exact ⟨rfl, rfl, rfl, rfl, rfl, ⟨_, rfl⟩, ⟨[], by simp⟩⟩

/-- BUS_INIT, then a MAPPER operation. -/
theorem Grown.transKept {s t u : State} (h : Grown s t) (g : Kept t u) : Grown s u := by
  obtain ⟨e1, h1⟩ := h.trace
  obtain ⟨e2, h2⟩ := g.trace
  obtain ⟨t1, h3⟩ := h.timeouts
  obtain ⟨t2, h4⟩ := g.timeouts
  exact ⟨g.cfg.trans h.cfg, g.host.trans h.host, g.op.trans h.op, g.addr.trans h.addr, g.len.trans h.len,
    ⟨e1 ++ e2, by rw [h2, h1, List.append_assoc]⟩, ⟨t1 ++ t2, by rw [h4, h3, List.append_assoc]⟩⟩

theorem commandBody_grown (i : Instr) (s : State) : Grown s (commandBody i s) := by
  cases i with
  | init _ _ => exact busInit_grown s
  | read _ _ => exact (busInit_grown s).transKept (eerd_kept _)
  | write _ _ => exact (busInit_grown s).transKept (eewr_kept _)
  | dump _ _ => exact ⟨rfl, rfl, rfl, rfl, rfl, ⟨_, rfl⟩, ⟨[], (List.append_nil _).symm⟩⟩
  | busw _ _ => exact (busw_kept _ _ _ s).grown
  | busr _ _ => exact (busr_kept _ _ s).grown
  | eerd _ _ => exact (eerd_kept s).grown
  | eerd1 _ _ => exact (eerd1_kept s).grown
  | eewr _ _ => exact (eewr_kept s).grown

/-- Settles O10: acceptance is all a command needs, because its body is total. -/
theorem exactlyAcceptedCommandsComplete : Obligations.ExactlyAcceptedCommandsComplete := by
  intro i s
  refine ⟨⟨fun ⟨t, ht⟩ => (exec_next ht).1, fun h => ⟨_, exec_accepts h⟩⟩, fun h => ⟨_, exec_accepts h, ?_⟩⟩
  have g := commandBody_grown i (latch i s)
  exact ⟨rfl, rfl, g.cfg, g.host, g.op, g.addr, g.len, g.trace, g.timeouts⟩

end Sys2Proof.Machine
end

section
/-! PROOFS. One induction for the MAPPER's loops (R134, R137, R139): what each slice carries on, the whole transfer
carries from its start to its end. -/

namespace Sys2Proof.Machine

/-- What one slice carries on: `P m ps` holds after `m` bytes in the slices `ps`, does not speak of the loop registers,
and each `ReadAt` or `WriteAt` of `n` bytes at `BO = m` appends its slice. -/
structure CarriesSlices (z : Word) (act : Word → State → State) (total : Nat)
    (P : Nat → List Slice → State → Prop) : Prop where
  work : ∀ m ps s w, w.page = s.work.page → P m ps s → P m ps (s.withWork w)
  slice : ∀ m ps n s, (n = z ∨ n = 1#32) → s.work.bo.toNat = m → m + n.toNat ≤ total → P m ps s →
    P (m + n.toNat) (ps ++ [⟨s.work.a, m, n.toNat⟩]) (act n s)

/-- The full blocks of `slices`. -/
def blockSlices (z : Nat) (a : Word) (n : Nat) : List Slice :=
  (List.range n).map fun b => ⟨a + BitVec.ofNat 32 (z * b), z * b, z⟩

theorem blockSlices_succ (z : Nat) (a : Word) (n : Nat) :
    blockSlices z a (n + 1) = blockSlices z a n ++ [⟨a + BitVec.ofNat 32 (z * n), z * n, z⟩] := by
  simp [blockSlices, List.range_succ]

/-- Single bytes from offset `o` on: the tail of `slices`, and all of `byteSlices`. -/
def singleSlices (o : Nat) (a : Word) (n : Nat) : List Slice :=
  (List.range n).map fun k => ⟨a + BitVec.ofNat 32 (o + k), o + k, 1⟩

theorem singleSlices_succ (o : Nat) (a : Word) (n : Nat) :
    singleSlices o a (n + 1) = singleSlices o a n ++ [⟨a + BitVec.ofNat 32 (o + n), o + n, 1⟩] := by
  simp [singleSlices, List.range_succ]

theorem slices_eq (z : Nat) (a : Word) (n : Nat) :
    slices z a n = blockSlices z a (n / z) ++ singleSlices (z * (n / z)) a (n % z) := rfl

theorem byteSlices_eq (a : Word) (n : Nat) : byteSlices a n = singleSlices 0 a n := by
  simp [byteSlices, singleSlices]

section Loops

variable {z : Word} {act : Word → State → State} {total : Nat} {P : Nat → List Slice → State → Prop}
  (hP : CarriesSlices z act total P) (hkept : ∀ n s, KeptLoop s (act n s))

include hP hkept

/-- The block loop, after `m` blocks. -/
theorem blockLoop_carries (n m : Nat) {s : State} (hfit : z.toNat * (m + n) ≤ total) (htotal : total < 2 ^ 32)
    (hb : s.work.b = BitVec.ofNat 32 m) (h : P (z.toNat * m) (blockSlices z.toNat s.work.addr m) s) :
    P (z.toNat * (m + n)) (blockSlices z.toNat s.work.addr (m + n)) (blockLoop z (act z) n s) := by
  induction n generalizing m s with
  | zero => exact h
  | succ n ih =>
    have hnext : z.toNat * (m + 1) ≤ total := (Nat.mul_le_mul_left _ (by omega)).trans hfit
    rw [Nat.mul_succ] at hnext
    have hoff : z * s.work.b = BitVec.ofNat 32 (z.toNat * m) := by
      rw [hb, BitVec.ofNat_mul, BitVec.ofNat_toNat, BitVec.setWidth_eq]
    have hbo : (sliceOfBlock z s).work.bo.toNat = z.toNat * m := by
      simp only [sliceOfBlock_work, hoff, BitVec.toNat_ofNat]
      exact Nat.mod_eq_of_lt (by omega)
    have hslice := hP.slice _ _ z _ (.inl rfl) hbo hnext (hP.work _ _ _ _ rfl h)
    have k := (KeptLoop.sliceOfBlock s z).trans (hkept z (sliceOfBlock z s))
    have ha : (sliceOfBlock z s).work.a = s.work.addr + BitVec.ofNat 32 (z.toNat * m) := by
      simp only [sliceOfBlock_work, hoff]
    rw [ha, ← blockSlices_succ, ← Nat.mul_succ] at hslice
    have hloop := ih (m + 1) (s := (act z (sliceOfBlock z s)).setB ((act z (sliceOfBlock z s)).work.b + 1#32))
      (by rwa [Nat.add_right_comm]) (by rw [setB_work, k.b, hb, BitVec.ofNat_add])
      (by rw [setB_work]; exact k.addr ▸ hP.work _ _ _ _ rfl hslice)
    rw [setB_work, Nat.add_right_comm] at hloop
    exact k.addr ▸ hloop

/-- The tail loop, after `m` bytes; the tail begins at the offset `o`. -/
theorem tailLoop_carries (y : Word) (o n m : Nat) (ps : List Slice) {s : State} (hfit : o + (m + n) ≤ total)
    (htotal : total < 2 ^ 32) (ho : y * s.work.nblk = BitVec.ofNat 32 o) (hk : s.work.k = BitVec.ofNat 32 m)
    (h : P (o + m) (ps ++ singleSlices o s.work.addr m) s) :
    P (o + (m + n)) (ps ++ singleSlices o s.work.addr (m + n)) (tailLoop y (act 1#32) n s) := by
  induction n generalizing m s with
  | zero => exact h
  | succ n ih =>
    have hoff : y * s.work.nblk + s.work.k = BitVec.ofNat 32 (o + m) := by rw [ho, hk, BitVec.ofNat_add]
    have hbo : (sliceOfTail y s).work.bo.toNat = o + m := by
      simp only [sliceOfTail_work, hoff, BitVec.toNat_ofNat]
      exact Nat.mod_eq_of_lt (by omega)
    have hone : (1#32).toNat = 1 := rfl
    have hslice := hP.slice _ _ 1#32 _ (.inr rfl) hbo (by omega) (hP.work _ _ _ _ rfl h)
    have k := (KeptLoop.sliceOfTail s y).trans (hkept 1#32 (sliceOfTail y s))
    have ha : (sliceOfTail y s).work.a = s.work.addr + BitVec.ofNat 32 (o + m) := by
      simp only [sliceOfTail_work, BitVec.add_assoc, hoff]
    rw [ha, hone, List.append_assoc, ← singleSlices_succ] at hslice
    have hloop := ih (m + 1) (s := (act 1#32 (sliceOfTail y s)).setK ((act 1#32 (sliceOfTail y s)).work.k + 1#32))
      (by omega) (by rw [setK_work, k.nblk, ho]) (by rw [setK_work, k.k, hk, BitVec.ofNat_add])
      (by rw [setK_work]; exact k.addr ▸ hP.work _ _ _ _ rfl hslice)
    rw [setK_work, Nat.add_right_comm] at hloop
    exact k.addr ▸ hloop

/-- EERD or EEWR: what its slices carry on holds of the whole transfer. -/
theorem slicedTransfer_carries {s : State} (htotal : s.work.len.toNat = total) (h : P 0 [] s) :
    P total (slices z.toNat s.work.addr total) (slicedTransfer z act s) := by
  have hlt : total < 2 ^ 32 := htotal ▸ s.work.len.isLt
  have hdiv : z.toNat * (total / z.toNat) + total % z.toNat = total := Nat.div_add_mod _ _
  have hn : (s.work.len / z).toNat = total / z.toNat := by rw [BitVec.toNat_udiv, htotal]
  have hoff : z * (s.work.len / z) = BitVec.ofNat 32 (z.toNat * (total / z.toNat)) := by
    rw [BitVec.ofNat_mul, ← hn]
    simp only [BitVec.ofNat_toNat, BitVec.setWidth_eq]
  have hstart : P (z.toNat * 0) [] ((splitLength z s).setB 0#32) :=
    hP.work _ _ (splitLength z s) _ rfl (hP.work _ _ s _ rfl h)
  have hblocks : P (z.toNat * (0 + total / z.toNat)) (blockSlices z.toNat s.work.addr (0 + total / z.toNat))
      (afterBlocks z act s) := by
    unfold afterBlocks
    rw [hn]
    exact blockLoop_carries hP hkept _ 0 (by rw [Nat.zero_add]; omega) hlt rfl hstart
  obtain ⟨k, hnblk, -⟩ := afterBlocks_kept z hkept s
  rw [Nat.zero_add] at hblocks
  have htail := tailLoop_carries hP hkept z (z.toNat * (total / z.toNat)) (total % z.toNat) 0
    (blockSlices z.toNat s.work.addr (total / z.toNat)) (s := (afterBlocks z act s).setK 0#32) (by omega) hlt
    (by rw [setK_work]; exact hnblk ▸ hoff) rfl
    (by rw [singleSlices, List.range_zero, List.map_nil, List.append_nil]; exact hP.work _ _ _ _ rfl hblocks)
  rw [Nat.zero_add, hdiv, setK_work] at htail
  rw [slices_eq, slicedTransfer, BitVec.toNat_umod, htotal]
  exact k.addr ▸ htail

end Loops

/-- EERD1's loop is a tail loop without blocks before it. -/
theorem byteLoop_eq_tailLoop (n : Nat) (s : State) : byteLoop n s = tailLoop 0#32 (readAt 1#32) n s := by
  induction n generalizing s with
  | zero => rfl
  | succ n ih =>
    have hslice : sliceOfByte s = sliceOfTail 0#32 s := by simp [sliceOfByte, sliceOfTail]
    rw [byteLoop, tailLoop, ih, hslice]

section Reads

variable {z : Word} {total : Nat} {P : Nat → List Slice → State → Prop}

theorem eerd_carries {s : State} (hP : CarriesSlices Config.rdBlock readAt total P)
    (htotal : s.work.len.toNat = total) (h : P 0 [] s) : P total (slices 16 s.work.addr total) (eerd s) :=
  eerd_eq s ▸ slicedTransfer_carries hP readAt_kept htotal h

theorem eewr_carries {s : State} (hP : CarriesSlices Config.wrBlock writeAt total P)
    (htotal : s.work.len.toNat = total) (h : P 0 [] s) : P total (slices 8 s.work.addr total) (eewr s) :=
  eewr_eq s ▸ slicedTransfer_carries hP writeAt_kept htotal h

theorem eerd1_carries {s : State} (hP : CarriesSlices z readAt total P)
    (htotal : s.work.len.toNat = total) (h : P 0 [] s) : P total (byteSlices s.work.addr total) (eerd1 s) := by
  have hloop := tailLoop_carries hP readAt_kept 0#32 0 total 0 [] (s := s.setK 0#32) (by omega)
    (htotal ▸ s.work.len.isLt) BitVec.zero_mul rfl (hP.work _ _ _ _ rfl h)
  simp only [Nat.zero_add, List.nil_append, setK_work, ← byteLoop_eq_tailLoop, ← byteSlices_eq] at hloop
  rw [← htotal] at hloop ⊢
  exact hloop

end Reads

end Sys2Proof.Machine
end

section
/-! PROOFS. The frame of the MAPPER's commands (R131, R134, R139, R143): the page selector, the loop registers and
BUF. -/

namespace Sys2Proof.Machine

/-! ### The page selector a transfer leaves (R41, R131) -/

/-- The shadow of DEVADDR after the slices `ps`: the selector of the last one, with one-byte addressing. -/
def selectorAfter (c : Config) (d : Word) (ps : List Slice) : Word :=
  if c.addrBytes = 1 then (ps.getLast?.map fun p => selectedDevice p.addr).getD d else d

theorem selectorAfter_nil (c : Config) (d : Word) : selectorAfter c d [] = d := ite_self d

theorem selectorAfter_append (c : Config) (d : Word) (ps : List Slice) (p : Slice) :
    selectorAfter c d (ps ++ [p]) = if c.addrBytes = 1 then selectedDevice p.addr else d := by
  simp [selectorAfter]

/-- With two-byte addressing nothing is selected. -/
theorem selectorAfter_two {c : Config} (h : c.addrBytes = 2) (d : Word) (ps : List Slice) :
    selectorAfter c d ps = d := by
  simp [selectorAfter, h]

/-- The selector of the slices so far, and `PAGE` as before with two-byte addressing. -/
def Selected (s : State) (ps : List Slice) (t : State) : Prop :=
  t.cfg = s.cfg ∧ t.shadow.devaddr = selectorAfter s.cfg s.shadow.devaddr ps ∧
    (s.cfg.addrBytes = 2 → t.work.page = s.work.page)

theorem Selected.refl (s : State) : Selected s [] s := ⟨rfl, (selectorAfter_nil _ _).symm, fun _ => rfl⟩

/-- A page select writes the selector of its address, or, with two-byte addressing, nothing. -/
theorem pageSelect_selected {s t : State} {ps : List Slice} (h : Selected s ps t) (m n : Nat) :
    Selected s (ps ++ [⟨t.work.a, m, n⟩]) (pageSelect t.work.a t) := by
  obtain ⟨hc, hd, hp⟩ := h
  rw [Selected, selectorAfter_append, pageSelect, hc]
  split
  · next h1 => exact ⟨hc, deviceAddress_shiftedPage _, fun h2 => by omega⟩
  · next h1 =>
    refine ⟨hc, ?_, hp⟩
    rw [hd, selectorAfter, if_neg h1]

theorem selected_carries (z : Word) {act : Word → State → State} (total : Nat) (s : State)
    (hkept : ∀ n t, KeptLoop t (act n t))
    (hleaves : ∀ n t, (act n t).shadow.devaddr = (pageSelect t.work.a t).shadow.devaddr ∧
      (act n t).work.page = (pageSelect t.work.a t).work.page) :
    CarriesSlices z act total (fun _ ps t => Selected s ps t) := by
  refine ⟨fun _ _ _ _ hw h => ⟨h.1, h.2.1, fun h2 => hw.trans (h.2.2 h2)⟩, fun m ps n t _ _ _ h => ?_⟩
  obtain ⟨-, hd, hp⟩ := pageSelect_selected h m n.toNat
  exact ⟨(hkept n t).cfg.trans h.1, (hleaves n t).1.trans hd, fun h2 => (hleaves n t).2.trans (hp h2)⟩

/-- After its page select a `ReadAt` leaves DEVADDR and `PAGE`. -/
theorem readAt_leaves (n : Word) (s : State) :
    (readAt n s).shadow.devaddr = (pageSelect s.work.a s).shadow.devaddr ∧
      (readAt n s).work.page = (pageSelect s.work.a s).work.page := by
  obtain ⟨-, -, hpage, hdev, -⟩ := busr_leaves s.work.bo n (busw s.work.a s.work.bo 0#32 (pageSelect s.work.a s))
  obtain ⟨-, -, -, hpage', hdev'⟩ := busw_leaves s.work.a s.work.bo 0#32 (pageSelect s.work.a s)
  exact ⟨hdev.trans hdev', hpage.trans hpage'⟩

/-- After its page select a `WriteAt` leaves DEVADDR and `PAGE`. -/
theorem writeAt_leaves (n : Word) (s : State) :
    (writeAt n s).shadow.devaddr = (pageSelect s.work.a s).shadow.devaddr ∧
      (writeAt n s).work.page = (pageSelect s.work.a s).work.page := by
  obtain ⟨-, -, -, hpage, hdev⟩ := busw_leaves s.work.a s.work.bo n (pageSelect s.work.a s)
  exact ⟨hdev, hpage⟩

theorem eerd_selected (s : State) : Selected s (slices 16 s.work.addr s.work.len.toNat) (eerd s) :=
  eerd_carries (P := fun _ ps t => Selected s ps t) (selected_carries _ _ s readAt_kept readAt_leaves) rfl (.refl s)

theorem eewr_selected (s : State) : Selected s (slices 8 s.work.addr s.work.len.toNat) (eewr s) :=
  eewr_carries (P := fun _ ps t => Selected s ps t) (selected_carries _ _ s writeAt_kept writeAt_leaves) rfl (.refl s)

theorem eerd1_selected (s : State) : Selected s (byteSlices s.work.addr s.work.len.toNat) (eerd1 s) :=
  eerd1_carries (z := 1#32) (P := fun _ ps t => Selected s ps t) (selected_carries _ _ s readAt_kept readAt_leaves) rfl
    (.refl s)

/-! ### The loop registers a transfer leaves -/

/-- What a tail of `n` bytes makes of the loop registers. -/
theorem tailLoop_registers (z : Word) {act : State → State} (hact : ∀ s, KeptLoop s (act s)) (n : Nat) (s : State) :
    (tailLoop z act n s).work.nblk = s.work.nblk ∧ (tailLoop z act n s).work.rem = s.work.rem ∧
      (tailLoop z act n s).work.b = s.work.b ∧ (tailLoop z act n s).work.k = s.work.k + BitVec.ofNat 32 n := by
  induction n generalizing s with
  | zero => exact ⟨rfl, rfl, rfl, (BitVec.add_zero _).symm⟩
  | succ n ih =>
    have h := (KeptLoop.sliceOfTail s z).trans (hact (sliceOfTail z s))
    obtain ⟨hn, hr, hb, hk⟩ := ih ((act (sliceOfTail z s)).setK ((act (sliceOfTail z s)).work.k + 1#32))
    refine ⟨hn.trans h.nblk, hr.trans h.rem, hb.trans h.b, hk.trans ?_⟩
    rw [setK_work, h.k]
    bv_omega

/-- EERD and EEWR end with every block and every tail byte counted. -/
theorem slicedTransfer_registers (z : Word) {act : Word → State → State} (hkept : ∀ n s, KeptLoop s (act n s))
    (s : State) :
    (slicedTransfer z act s).work.nblk = s.work.len / z ∧ (slicedTransfer z act s).work.rem = s.work.len % z ∧
      (slicedTransfer z act s).work.b = s.work.len / z ∧ (slicedTransfer z act s).work.k = s.work.len % z := by
  obtain ⟨-, hnblk, hrem, hb⟩ := afterBlocks_kept z hkept s
  obtain ⟨hn', hr', hb', hk'⟩ :=
    tailLoop_registers z (hkept 1#32) (s.work.len % z).toNat ((afterBlocks z act s).setK 0#32)
  refine ⟨hn'.trans hnblk, hr'.trans hrem, hb'.trans hb, hk'.trans ?_⟩
  rw [setK_work, BitVec.ofNat_toNat, BitVec.setWidth_eq, BitVec.zero_add]

/-- EERD1 has no blocks and ends with `K` at the length. -/
theorem eerd1_registers (s : State) :
    (eerd1 s).work.nblk = s.work.nblk ∧ (eerd1 s).work.rem = s.work.rem ∧ (eerd1 s).work.b = s.work.b ∧
      (eerd1 s).work.k = s.work.len := by
  have h := tailLoop_registers 0#32 (readAt_kept 1#32) s.work.len.toNat (s.setK 0#32)
  rw [← byteLoop_eq_tailLoop] at h
  obtain ⟨hn, hr, hb, hk⟩ := h
  refine ⟨hn, hr, hb, hk.trans ?_⟩
  rw [setK_work, BitVec.ofNat_toNat, BitVec.setWidth_eq, BitVec.zero_add]

/-! ### EEWR only reads BUF (R141) -/

theorem writeAt_buf (n : Word) (s : State) : (writeAt n s).buf = s.buf :=
  (busw_leaves s.work.a s.work.bo n (pageSelect s.work.a s)).1.trans (pageSelect_leaves s.work.a s).1

theorem eewr_buf (s : State) : (eewr s).buf = s.buf :=
  eewr_carries (P := fun _ _ t => t.buf = s.buf)
    ⟨fun _ _ _ _ _ h => h, fun _ _ n t _ _ _ h => (writeAt_buf n t).trans h⟩ rfl rfl

/-- Settles O33: the clauses of all three commands by `Kept` and `Selected`, each command's own clauses by its loops. -/
theorem mapperFrame : Obligations.MapperFrame := by
  intro s i a n hi hacc
  obtain ⟨haddr, hlen⟩ : i.address = a ∧ i.length = n := by
    rcases hi with rfl | rfl | rfl <;> exact ⟨rfl, rfl⟩
  have hkept : Kept (latch i s) (commandBody i (latch i s)) := by
    rcases hi with rfl | rfl | rfl
    · exact eerd_kept _
    · exact eerd1_kept _
    · exact eewr_kept _
  obtain ⟨ps, -, hdev, hpage⟩ : ∃ ps, Selected (latch i s) ps (commandBody i (latch i s)) := by
    rcases hi with rfl | rfl | rfl
    · exact ⟨_, eerd_selected _⟩
    · exact ⟨_, eerd1_selected _⟩
    · exact ⟨_, eewr_selected _⟩
  refine ⟨_, exec_accepts hacc, hkept.rstctrl, hkept.cfg, hkept.host, rfl, hkept.shadowConfig, hkept.shadowClkdiv,
    hkept.shadowAddr, fun h2 => ⟨hdev.trans (selectorAfter_two h2 _ _), hpage h2⟩, ?_, hkept.op,
    hkept.addr.trans haddr, hkept.len.trans hlen, ?_, ?_, ?_⟩
  · rintro rfl
    exact eewr_buf _
  · rintro rfl
    simp only [commandBody, State.withRun_work, eerd_eq]
    exact slicedTransfer_registers 16#32 readAt_kept (latch (.eerd a n) s)
  · rintro rfl
    exact eerd1_registers (latch (.eerd1 a n) s)
  · rintro rfl
    simp only [commandBody, State.withRun_work, eewr_eq]
    exact slicedTransfer_registers 8#32 writeAt_kept (latch (.eewr a n) s)

end Sys2Proof.Machine
end

section
/-! PROOFS. What a command writes (R29 to R38, R104): every event is legal, and every shadow is the last value written
there (R28, R41). -/

namespace Sys2Proof.Machine

/-! ### Events that keep a condition, and the shadows they leave -/

theorem lastWritten_append (r : OutReg) (d : Word) (es fs : List Event) :
    lastWritten r d (es ++ fs) = lastWritten r (lastWritten r d es) fs := by
  induction es generalizing d with
  | nil => rfl
  | cons e es ih => cases e <;> exact ih _

/-- A write sets the shadow of its own register only. -/
theorem shadowOf_setShadow (c : CtrlRegs) (r r' : OutReg) (v : Word) :
    shadowOf (setShadow r v c) r' = (shadowOf c r').map fun d => if r = r' then v else d := by
  cases r <;> cases r' <;> rfl

/-- From `s` to `t` only events that satisfy `P` are emitted; every shadow is the last value written there or what it
was, and ADDR is not written (R28). -/
def Emits (P : Event → Prop) (s t : State) : Prop :=
  ∃ evs, t.trace = s.trace ++ evs ∧ (∀ e ∈ evs, P e) ∧
    (∀ r v, shadowOf s.shadow r = some v → shadowOf t.shadow r = some (lastWritten r v evs)) ∧
    t.shadow.addr = s.shadow.addr

section Emits

variable {P : Event → Prop}

/-- Nothing is emitted. -/
theorem Emits.silent {s t : State} (htrace : t.trace = s.trace) (hshadow : t.shadow = s.shadow) : Emits P s t :=
  ⟨[], by rw [htrace, List.append_nil], fun _ h => absurd h List.not_mem_nil,
    fun _ _ h => by rw [hshadow]; exact h, by rw [hshadow]⟩

theorem Emits.trans {s t u : State} (h : Emits P s t) (g : Emits P t u) : Emits P s u := by
  obtain ⟨es, ht, hes, hshadow, haddr⟩ := h
  obtain ⟨fs, hu, hfs, hshadow', haddr'⟩ := g
  refine ⟨es ++ fs, by rw [hu, ht, List.append_assoc], fun e he => ?_, fun r v hv => ?_, haddr'.trans haddr⟩
  · exact (List.mem_append.1 he).elim (hes e) (hfs e)
  · rw [lastWritten_append]
    exact hshadow' r _ (hshadow r v hv)

theorem Emits.withWork {s t : State} (h : Emits P s t) (w : Work) : Emits P s (t.withWork w) := h

theorem Emits.setI {s t : State} (h : Emits P s t) (v : Word) : Emits P s (t.setI v) := h

theorem Emits.noteTimeout {s t : State} (h : Emits P s t) (m : Timeout) : Emits P s (t.noteTimeout m) := h

theorem Emits.bufStore {s t : State} (h : Emits P s t) (i : Nat) (b : Byte) : Emits P s (t.bufStore i b) := h

theorem emits_busRead {r : InReg} (h : ∀ v, P (.read r v)) (s : State) : Emits P s (busRead r s) :=
  ⟨_, busRead_trace s r, by simpa using h _, fun _ _ hv => hv, rfl⟩

theorem emits_busWrite {r : OutReg} {v : Word} (h : P (.write r v)) (s : State) : Emits P s (busWrite r v s) := by
  refine ⟨_, busWrite_trace s r v, by simpa using h, fun r' d hd => ?_, by cases r <;> rfl⟩
  rw [busWrite_shadow, shadowOf_setShadow, hd]
  rfl

theorem emits_delay {n : Nat} (h : P (.delay n)) (s : State) : Emits P s (delay n s) :=
  ⟨_, delay_trace s n, by simpa using h, fun _ _ hv => hv, rfl⟩

theorem emits_report (h : P .report) (s : State) : Emits P s (report s) :=
  ⟨_, report_trace s, by simpa using h, fun _ _ hv => hv, rfl⟩

section Polls

variable (status : ∀ v, P (.read .status v))

include status

theorem pollLoop_emits (test : Word → Bool) (n : Nat) (s : State) : Emits P s (pollLoop test n s).2 := by
  induction n generalizing s with
  | zero => exact .silent rfl rfl
  | succ n ih =>
    have hread := emits_busRead status s
    rw [pollLoop]
    split
    · exact hread
    · exact (hread.withWork _).trans (ih _)

theorem poll_emits (test : Word → Bool) (n : Nat) (s : State) : Emits P s (poll test n s).2 :=
  pollLoop_emits status test n (s.setJ 0#32)

theorem waitIdle_emits (m : Timeout) (s : State) : Emits P s (waitIdle m s) := by
  have hpoll := poll_emits status statusIdle s.cfg.busyLoop s
  simp only [waitIdle]
  split
  · exact hpoll
  · exact hpoll.noteTimeout m

theorem buswPosition_emits (dataout : ∀ b : Byte, P (.write .dataout b.toWord)) (s : State) :
    Emits P s (buswPosition s) := by
  have hpoll := poll_emits status statusTxEmpty s.cfg.maxBusyLoop s
  unfold buswPosition pollSet
  refine Emits.setI ?_ _
  split
  · obtain ⟨b, hb⟩ := nextByte_legal (poll statusTxEmpty s.cfg.maxBusyLoop s).2 s.cfg
    exact hpoll.trans (emits_busWrite (hb ▸ dataout b) _)
  · exact hpoll.noteTimeout _

theorem buswLoop_emits (dataout : ∀ b : Byte, P (.write .dataout b.toWord)) (n : Nat) (s : State) :
    Emits P s (buswLoop n s) := by
  induction n generalizing s with
  | zero => exact .silent rfl rfl
  | succ n ih => exact (buswPosition_emits status dataout s).trans (ih _)

theorem busrPosition_emits (datain : ∀ v, P (.read .datain v)) (s : State) : Emits P s (busrPosition s) := by
  have hpoll := poll_emits status statusDataReady s.cfg.maxBusyLoop s
  unfold busrPosition pollSet
  refine Emits.setI ?_ _
  split
  · exact (hpoll.trans (emits_busRead datain _)).bufStore _ _
  · exact hpoll.noteTimeout _

theorem busrLoop_emits (datain : ∀ v, P (.read .datain v)) (n : Nat) (s : State) : Emits P s (busrLoop n s) := by
  induction n generalizing s with
  | zero => exact .silent rfl rfl
  | succ n ih => exact (busrPosition_emits status datain s).trans (ih _)

/-- BUSW (R108). -/
theorem busw_emits (dataout : ∀ b : Byte, P (.write .dataout b.toWord))
    (start : P (.write .startxfr Config.startWrite)) (ta bo : Word) {tn : Word} {s : State}
    (count : P (.write .bytecnt (tn + s.cfg.addrWord - 1#32))) : Emits P s (busw ta bo tn s) := by
  obtain ⟨b, hb⟩ := firstByte_legal (busWrite .bytecnt (tn + s.cfg.addrWord - 1#32) (s.setBusw ta bo tn)) s.cfg
  have hcount : Emits P s (busWrite .bytecnt (tn + s.cfg.addrWord - 1#32) (s.setBusw ta bo tn)) :=
    emits_busWrite count (s.setBusw ta bo tn)
  have hstart : Emits P s (buswStart (s.setBusw ta bo tn)) :=
    ((hcount.trans (emits_busWrite (hb ▸ dataout b) _)).trans (emits_busWrite start _)).setI 0#32
  exact (hstart.trans (buswLoop_emits status dataout _ _)).trans (waitIdle_emits status _ _)

/-- BUSR (R111). -/
theorem busr_emits (datain : ∀ v, P (.read .datain v)) (start : P (.write .startxfr Config.startRead)) (bo : Word)
    {tn : Word} (count : P (.write .bytecnt (tn - 1#32))) (s : State) : Emits P s (busr bo tn s) := by
  have hcount : Emits P s (busWrite .bytecnt (tn - 1#32) (s.setBusr bo tn)) :=
    emits_busWrite count (s.setBusr bo tn)
  have hstart : Emits P s (busrStart (s.setBusr bo tn)) :=
    (hcount.trans (emits_busWrite start _)).setI 0#32
  exact (hstart.trans (busrLoop_emits status datain _ _)).trans (waitIdle_emits status _ _)

end Polls

/-- The events of the MAPPER's slices but for their byte counts satisfy `P`. -/
structure SliceEvents (P : Event → Prop) (c : Config) : Prop where
  status : ∀ v, P (.read .status v)
  datain : ∀ v, P (.read .datain v)
  dataout : ∀ b : Byte, P (.write .dataout b.toWord)
  startWrite : P (.write .startxfr Config.startWrite)
  startRead : P (.write .startxfr Config.startRead)
  select : c.addrBytes = 1 → ∀ a, P (.write .devaddr (selectedDevice a))
  writeCycle : P (.delay Config.tWriteCycle)

theorem pageSelect_emits {s : State} {a : Word}
    (select : s.cfg.addrBytes = 1 → P (.write .devaddr (selectedDevice a))) : Emits P s (pageSelect a s) := by
  unfold pageSelect
  split
  · next h1 =>
    have hselect : P (.write .devaddr (deviceAddress (shiftedPage a))) := by
      rw [deviceAddress_shiftedPage]
      exact select h1
    exact emits_busWrite hselect (s.setPage (shiftedPage a))
  · exact .silent rfl rfl

theorem readAt_emits {s : State} (hP : SliceEvents P s.cfg) {n : Word}
    (hdummy : P (.write .bytecnt (0#32 + s.cfg.addrWord - 1#32))) (hread : P (.write .bytecnt (n - 1#32))) :
    Emits P s (readAt n s) := by
  have k := pageSelect_kept s.work.a s
  have hselect : Emits P s (pageSelect s.work.a s) := pageSelect_emits fun h1 => hP.select h1 _
  refine (hselect.trans (busw_emits hP.status hP.dataout hP.startWrite _ _ ?_)).trans
    (busr_emits hP.status hP.datain hP.startRead _ hread _)
  rw [k.cfg]
  exact hdummy

theorem writeAt_emits {s : State} (hP : SliceEvents P s.cfg) {n : Word}
    (hcount : P (.write .bytecnt (n + s.cfg.addrWord - 1#32))) : Emits P s (writeAt n s) := by
  have k := pageSelect_kept s.work.a s
  have hselect : Emits P s (pageSelect s.work.a s) := pageSelect_emits fun h1 => hP.select h1 _
  refine (hselect.trans (busw_emits hP.status hP.dataout hP.startWrite _ _ ?_)).trans
    (emits_delay hP.writeCycle _)
  rw [k.cfg]
  exact hcount

/-- The slices' events are the transfer's. -/
theorem emits_carries {z : Word} {act : Word → State → State} {total : Nat} (s : State)
    (hkept : ∀ n t, KeptLoop t (act n t))
    (hact : ∀ n t, t.cfg = s.cfg → (n = z ∨ n = 1#32) → n.toNat ≤ total → Emits P t (act n t)) :
    CarriesSlices z act total (fun _ _ t => t.cfg = s.cfg ∧ Emits P s t) := by
  refine ⟨fun _ _ _ _ _ h => ⟨h.1, h.2.withWork _⟩, fun m _ n t hn _ hfit h => ?_⟩
  exact ⟨(hkept n t).cfg.trans h.1, h.2.trans (hact n t h.1 hn (by omega))⟩

section Mapper

variable {s : State} (hP : SliceEvents P s.cfg)

include hP

theorem eerd_emits (hdummy : P (.write .bytecnt (0#32 + s.cfg.addrWord - 1#32)))
    (hblock : P (.write .bytecnt (Config.rdBlock - 1#32))) (hbyte : P (.write .bytecnt (1#32 - 1#32))) :
    Emits P s (eerd s) := by
  refine (eerd_carries (P := fun _ _ t => t.cfg = s.cfg ∧ Emits P s t)
    (emits_carries s readAt_kept fun n t hc hn _ => ?_) rfl ⟨rfl, .silent rfl rfl⟩).2
  rcases hn with rfl | rfl
  · exact readAt_emits (hc ▸ hP) (hc ▸ hdummy) hblock
  · exact readAt_emits (hc ▸ hP) (hc ▸ hdummy) hbyte

theorem eerd1_emits (hdummy : P (.write .bytecnt (0#32 + s.cfg.addrWord - 1#32)))
    (hbyte : P (.write .bytecnt (1#32 - 1#32))) : Emits P s (eerd1 s) := by
  refine (eerd1_carries (z := 1#32) (P := fun _ _ t => t.cfg = s.cfg ∧ Emits P s t)
    (emits_carries s readAt_kept fun n t hc hn _ => ?_) rfl ⟨rfl, .silent rfl rfl⟩).2
  obtain rfl : n = 1#32 := hn.elim id id
  exact readAt_emits (hc ▸ hP) (hc ▸ hdummy) hbyte

theorem eewr_emits (hcount : ∀ n : Word, n = Config.wrBlock ∨ n = 1#32 → n.toNat ≤ s.work.len.toNat →
    P (.write .bytecnt (n + s.cfg.addrWord - 1#32))) : Emits P s (eewr s) :=
  (eewr_carries (P := fun _ _ t => t.cfg = s.cfg ∧ Emits P s t)
    (emits_carries s writeAt_kept fun _ _ hc hn hfit => writeAt_emits (hc ▸ hP) (hc ▸ hcount _ hn hfit)) rfl
    ⟨rfl, .silent rfl rfl⟩).2

end Mapper

theorem shadowOf_initShadow (c : Config) (v : Word) (r : OutReg) :
    shadowOf (initShadow c) r = (shadowOf c.ctrlReset r).map fun d => lastWritten r d (initEvents c v) := by
  cases r <;> rfl

/-- BUS_INIT writes its defaults over the shadows after the pulse (R40, R106). -/
theorem busInit_emits {s : State} (hP : ∀ e ∈ initEvents s.cfg (s.env.answer s.cfg .rstctrl).1, P e) :
    Emits P (controllerReset s) (busInit s) := by
  obtain ⟨e, h⟩ := busInit_spec s
  rw [h]
  refine ⟨_, rfl, hP, fun r d hd => ?_, rfl⟩
  rw [controllerReset_shadow] at hd
  exact (shadowOf_initShadow s.cfg _ r).trans (by rw [hd]; rfl)

end Emits

/-! ### Every event of a command is legal (R29 to R38, R104) -/

/-- What `EveryEventIsLegal` asks of one event of the command `i`, where RSTCTRL reads `v`. -/
structure LegalIn (c : Config) (i : Instr) (v : Word) (e : Event) : Prop where
  legal : e.Legal c
  bytecnt : ∀ w, e = .write .bytecnt w → w.toNat ∈ byteCounts c i
  rstctrl : ∀ w, e = .write .rstctrl w → w = v ||| c.rstMask ∨ w = v &&& ~~~c.rstMask

theorem legalIn_bytecnt {c : Config} {i : Instr} {v w : Word} (hmem : w.toNat ∈ byteCounts c i)
    (hle : w.toNat ≤ c.bufSize + c.addrBytes - 1) : LegalIn c i v (.write .bytecnt w) :=
  ⟨hle, by rintro _ ⟨⟩; exact hmem, nofun⟩

theorem legalIn_sliceEvents (c : Config) (i : Instr) (v : Word) : SliceEvents (LegalIn c i v) c where
  status _ := ⟨trivial, nofun, nofun⟩
  datain _ := ⟨trivial, nofun, nofun⟩
  dataout b := ⟨⟨b, rfl⟩, nofun, nofun⟩
  startWrite := ⟨.inl rfl, nofun, nofun⟩
  startRead := ⟨.inr rfl, nofun, nofun⟩
  select h1 a := ⟨⟨⟨a.extractLsb' 8 3, rfl⟩, fun h2 => by omega⟩, nofun, nofun⟩
  writeCycle := ⟨.inr rfl, nofun, nofun⟩

theorem legalIn_initEvents (c : Config) (i : Instr) (v : Word) : ∀ e ∈ initEvents c v, LegalIn c i v e := by
  have reset : ∀ w, w = v ||| c.rstMask ∨ w = v &&& ~~~c.rstMask → LegalIn c i v (.write .rstctrl w) :=
    fun w hw => ⟨trivial, nofun, by rintro _ ⟨⟩; exact hw⟩
  simp only [initEvents, List.forall_mem_cons]
  exact ⟨⟨trivial, nofun, nofun⟩, reset _ (.inl rfl), reset _ (.inr rfl), ⟨.inl rfl, nofun, nofun⟩,
    ⟨rfl, nofun, nofun⟩, ⟨rfl, nofun, nofun⟩, ⟨⟨⟨0#3, rfl⟩, fun _ => rfl⟩, nofun, nofun⟩,
    fun _ h => nomatch h⟩

/-- The byte counts of a write transaction of `tn` payload bytes and of a read of `tn` bytes (R37). -/
theorem legalIn_total {c : Config} {i : Instr} (hv : c.Valid) (v : Word) {tn : Word} (hfit : tn.toNat ≤ c.bufSize)
    (hmem : tn.toNat + c.addrBytes - 1 ∈ byteCounts c i) :
    LegalIn c i v (.write .bytecnt (tn + c.addrWord - 1#32)) := by
  have hn := total_toNat hv hfit
  exact legalIn_bytecnt (hn ▸ hmem) (by omega)

theorem legalIn_read {c : Config} {i : Instr} (v : Word) {tn : Word} (hpos : 0 < tn.toNat)
    (hfit : tn.toNat ≤ c.bufSize) (hmem : tn.toNat - 1 ∈ byteCounts c i) :
    LegalIn c i v (.write .bytecnt (tn - 1#32)) := by
  have hn : (tn - 1#32).toNat = tn.toNat - 1 := by bv_omega
  exact legalIn_bytecnt (hn ▸ hmem) (by omega)

theorem eerd_legal {c : Config} {i : Instr} (hv : c.Valid) (v : Word) {s : State} (hc : s.cfg = c)
    (hcounts : [c.addrBytes - 1, 0, 15] ⊆ byteCounts c i) : Emits (LegalIn c i v) s (eerd s) := by
  subst hc
  have hsize := bufSize_of_valid hv
  refine eerd_emits (legalIn_sliceEvents _ _ _) ?_ ?_ ?_
  · exact legalIn_total hv v (Nat.zero_le _) (hcounts (by simp))
  · exact legalIn_read v (by decide) hsize (hcounts (by simp [Config.rdBlock]))
  · exact legalIn_read v (by decide) (Nat.le_trans (by decide) hsize) (hcounts (by simp))

theorem eerd1_legal {i : Instr} (v : Word) {s : State} (hv : s.cfg.Valid)
    (hcounts : [s.cfg.addrBytes - 1, 0] ⊆ byteCounts s.cfg i) : Emits (LegalIn s.cfg i v) s (eerd1 s) := by
  have hsize := bufSize_of_valid hv
  refine eerd1_emits (legalIn_sliceEvents _ _ _) ?_ ?_
  · exact legalIn_total hv v (Nat.zero_le _) (hcounts (by simp))
  · exact legalIn_read v (by decide) (Nat.le_trans (by decide) hsize) (hcounts (by simp))

theorem eewr_legal {c : Config} {i : Instr} (hv : c.Valid) (v : Word) {s : State} (hc : s.cfg = c)
    (hone : 1 + c.addrBytes - 1 ∈ byteCounts c i)
    (hblock : 8 ≤ s.work.len.toNat → 8 + c.addrBytes - 1 ∈ byteCounts c i) :
    Emits (LegalIn c i v) s (eewr s) := by
  subst hc
  have hsize := bufSize_of_valid hv
  refine eewr_emits (legalIn_sliceEvents _ _ _) fun n hn hfit => ?_
  rcases hn with rfl | rfl
  · exact legalIn_total hv v (Nat.le_trans (by decide) hsize) (hblock hfit)
  · exact legalIn_total hv v (Nat.le_trans (by decide) hsize) hone

/-- WRITE's sizes are less than a page, so that it writes single bytes (R77, R165). -/
theorem length_lt_of_legalWriteSize {n : Word} (h : Instr.legalWriteSize n = true) : n.toNat < 8 := by
  have hn : n = 1#32 ∨ n = 2#32 ∨ n = 4#32 := by simpa [Instr.legalWriteSize, or_assoc] using h
  rcases hn with rfl | rfl | rfl <;> decide

/-- The state whose shadows a command's writes start from: after the pulse for a command that begins with BUS_INIT. -/
def writeBase (i : Instr) (s : State) : State := if beginsWithInit i then controllerReset s else s

/-- Everything a command emits is legal, and its shadows are what it wrote last. -/
theorem commandBody_emits {i : Instr} {s : State} (h : Accepts i s) :
    Emits (LegalIn s.cfg i (s.env.answer s.cfg .rstctrl).1) (writeBase i (latch i s)) (commandBody i (latch i s)) := by
  obtain ⟨hv, -, hw⟩ := h
  have hinit : Emits (LegalIn s.cfg i (s.env.answer s.cfg .rstctrl).1) (controllerReset (latch i s))
      (busInit (latch i s)) := busInit_emits (legalIn_initEvents s.cfg i _)
  have hcfg : (busInit (latch i s)).cfg = s.cfg := busInit_cfg _
  have hlen : (busInit (latch i s)).work.len = i.length := (busInit_grown _).len
  have hslices := legalIn_sliceEvents s.cfg i (s.env.answer s.cfg .rstctrl).1
  cases i with
  | init a n => exact hinit
  | read a n => exact hinit.trans (eerd_legal hv _ hcfg (List.Subset.refl _))
  | write a n =>
    refine hinit.trans (eewr_legal hv _ hcfg (List.mem_singleton_self _) fun h8 => ?_)
    have hn := length_lt_of_legalWriteSize hw
    rw [hlen] at h8
    exact absurd h8 (Nat.not_le_of_lt hn)
  | dump a n => exact emits_report ⟨trivial, nofun, nofun⟩ _
  | busw a n =>
    exact busw_emits hslices.status hslices.dataout hslices.startWrite _ _
      (legalIn_total hv _ (length_fits hv (n := n) (.inl hw)) (List.mem_singleton_self _))
  | busr a n =>
    obtain ⟨hne, hfit⟩ : n ≠ 0#32 ∧ Instr.fitsBuf s.cfg n = true := by simpa [Instr.wellFormed] using hw
    exact busr_emits hslices.status hslices.datain hslices.startRead _
      (legalIn_read _ (by bv_omega) (length_fits hv (.inl hfit)) (List.mem_singleton_self _)) _
  | eerd a n => exact eerd_legal hv _ rfl (List.Subset.refl _)
  | eerd1 a n => exact eerd1_legal _ hv (List.Subset.refl _)
  | eewr a n =>
    exact eewr_legal hv _ rfl (List.mem_cons_self ..) fun _ => List.mem_cons_of_mem _ (List.mem_singleton_self _)

theorem writeBase_trace (i : Instr) (s : State) : (writeBase i s).trace = s.trace := by
  unfold writeBase
  split <;> rfl

theorem writeBase_shadow (i : Instr) (s : State) :
    (writeBase i s).shadow = if beginsWithInit i then s.cfg.ctrlReset else s.shadow := by
  unfold writeBase
  split <;> rfl

/-- Settles O42, by `commandBody_emits`. -/
theorem everyEventIsLegal : Obligations.EveryEventIsLegal := by
  intro i s h
  obtain ⟨evs, htrace, hlegal, -⟩ := commandBody_emits h
  rw [writeBase_trace] at htrace
  exact ⟨_, evs, exec_accepts h, htrace, fun e he => (hlegal e he).legal, fun v hv => (hlegal _ hv).bytecnt v rfl,
    fun v hv => (hlegal _ hv).rstctrl v rfl⟩

/-- Settles O36, by `commandBody_emits`: its start is the state before the command or after the pulse. -/
theorem shadowsHoldTheLastWrites : Obligations.ShadowsHoldTheLastWrites := by
  intro i s h
  obtain ⟨evs, htrace, -, hshadow, haddr⟩ := commandBody_emits h
  rw [writeBase_trace] at htrace
  rw [writeBase_shadow] at hshadow haddr
  exact ⟨_, evs, exec_accepts h, htrace, hshadow, haddr⟩

/-! ### What the driver commands leave (R41) -/

/-- `0x28 | sel` as a number (R131, R132). -/
theorem selectedDevice_eq (a : Word) : selectedDevice a = BitVec.ofNat 32 (0x28 + a.toNat / 256 % 8) := by
  have hsel : (a.extractLsb' 8 3).toNat = a.toNat / 256 % 8 := by
    rw [BitVec.extractLsb'_toNat, Nat.shiftRight_eq_div_pow]
  rw [selectedDevice, ← hsel]
  generalize a.extractLsb' 8 3 = p
  revert p
  decide

/-- `selectorAfter` as R41 says it. -/
theorem selectorAfter_eq {c : Config} (hv : c.Valid) (d : Word) (ps : List Slice) :
    selectorAfter c d ps =
      if c.addrBytes = 2 then d
      else match ps.getLast? with
        | none => d
        | some p => BitVec.ofNat 32 (0x28 + p.addr.toNat / 256 % 8) := by
  have ha : c.addrBytes = 1 ∨ c.addrBytes = 2 := hv.1
  rcases ha with h | h
  · simp only [selectorAfter, h, if_true]
    cases ps.getLast? with
    | none => rfl
    | some p => exact selectedDevice_eq p.addr
  · simp only [selectorAfter, h, if_true]
    rfl

/-- INIT, READ and WRITE keep what BUS_INIT left but for the page selectors of the slices `ps`. -/
theorem driverBody_selected {i : Instr} {s : State} {a n : Word} {ps : List Slice}
    (hi : (i = .init a n ∧ ps = []) ∨ (i = .read a n ∧ ps = slices 16 a n.toNat) ∨
      (i = .write a n ∧ ps = slices 8 a n.toNat)) (haddr : s.work.addr = a) (hlen : s.work.len = n) :
    Kept (busInit s) (commandBody i s) ∧ Selected (busInit s) ps (commandBody i s) := by
  have haddr' : (busInit s).work.addr = a := (busInit_grown s).addr.trans haddr
  have hlen' : (busInit s).work.len = n := (busInit_grown s).len.trans hlen
  rcases hi with ⟨rfl, rfl⟩ | ⟨rfl, rfl⟩ | ⟨rfl, rfl⟩
  · exact ⟨.refl _, .refl _⟩
  · have hsel := eerd_selected (busInit s)
    rw [haddr', hlen'] at hsel
    exact ⟨eerd_kept _, hsel⟩
  · have hsel := eewr_selected (busInit s)
    rw [haddr', hlen'] at hsel
    exact ⟨eewr_kept _, hsel⟩

/-- Settles O37: BUS_INIT sets the defaults, the slices select their pages, and every other shadow is the last value
written. -/
theorem driverCommandsLeaveTheControllerConfigured : Obligations.DriverCommandsLeaveTheControllerConfigured := by
  intro i s a n ps hi h
  obtain ⟨evs, htrace, -, hshadow, -⟩ := commandBody_emits h
  obtain ⟨hbegin, haddr, hlen⟩ : beginsWithInit i = true ∧ i.address = a ∧ i.length = n := by
    rcases hi with ⟨rfl, -⟩ | ⟨rfl, -⟩ | ⟨rfl, -⟩ <;> exact ⟨rfl, rfl, rfl⟩
  rw [writeBase_trace] at htrace
  rw [writeBase_shadow, if_pos hbegin] at hshadow
  obtain ⟨hkept, -, hdev, -⟩ := driverBody_selected (s := latch i s) hi haddr hlen
  obtain ⟨e, hinit⟩ := busInit_spec (latch i s)
  rw [selectorAfter_eq (by rw [busInit_cfg]; exact h.1), busInit_cfg] at hdev
  rw [hinit] at hkept hdev
  exact ⟨_, evs, exec_accepts h, htrace, hkept.shadowConfig, hkept.shadowClkdiv, hdev,
    Option.some.inj (hshadow .bytecnt _ rfl), Option.some.inj (hshadow .dataout _ rfl),
    Option.some.inj (hshadow .startxfr _ rfl), hkept.rstctrl⟩

end Sys2Proof.Machine
end

section
/-! PROOFS. What the MAPPER's reads put in BUF (R111, R112, R134, R137): from one byte position to the whole
transfer. -/

namespace Sys2Proof.Machine

theorem datainWords_append (es fs : List Event) : datainWords (es ++ fs) = datainWords es ++ datainWords fs := by
  induction es with
  | nil => rfl
  | cons e es ih =>
    rcases e with ⟨r, v⟩ | ⟨_ | _ | _, v⟩ | n | _
    case read.datain => exact congrArg (v :: ·) ih
    all_goals exact ih

/-- Not a DATAIN read. -/
def Event.NotDatain (e : Event) : Prop := ∀ v, e ≠ .read .datain v

theorem datainWords_eq_nil {es : List Event} (h : ∀ e ∈ es, e.NotDatain) : datainWords es = [] := by
  induction es with
  | nil => rfl
  | cons e es ih =>
    obtain ⟨he, hes⟩ := List.forall_mem_cons.1 h
    rcases e with ⟨r, v⟩ | ⟨_ | _ | _, v⟩ | n | _
    case read.datain => exact absurd rfl (he v)
    all_goals exact ih hes

/-- From `s` to `t` the events `evs` and the timeouts `ts` are appended and the `n` bytes of BUF from `lo` on are
filled: each is the byte before or one that DATAIN gave, and without a receive timeout they are DATAIN's bytes in order;
every other byte is as before (R112). -/
structure FillsBy (lo n : Nat) (s t : State) (evs : List Event) (ts : List Timeout) : Prop where
  trace : t.trace = s.trace ++ evs
  timeouts : t.timeouts = s.timeouts ++ ts
  outside : ∀ k, k < lo ∨ lo + n ≤ k → t.bufByte k = s.bufByte k
  inside : ∀ k, t.bufByte k = s.bufByte k ∨ ∃ w ∈ datainWords evs, t.bufByte k = w.lowByte
  exact : (∀ x ∈ ts, x.isRx = false) →
    (datainWords evs).map Word.lowByte = (List.range n).map fun k => t.bufByte (lo + k)

/-- `FillsBy` for the events and timeouts there are. -/
def Fills (lo n : Nat) (s t : State) : Prop := ∃ evs ts, FillsBy lo n s t evs ts

/-- BUF is left and no DATAIN read made. -/
theorem fills_none (lo : Nat) {s t : State} (hbuf : t.buf = s.buf) (h : Emits Event.NotDatain s t)
    (hts : ∃ ts, t.timeouts = s.timeouts ++ ts) : Fills lo 0 s t := by
  obtain ⟨evs, htrace, hevs, -⟩ := h
  obtain ⟨ts, hts⟩ := hts
  exact ⟨evs, ts, htrace, hts, fun k _ => State.bufByte_congr hbuf k, fun k => .inl (State.bufByte_congr hbuf k),
    fun _ => by rw [datainWords_eq_nil hevs]; rfl⟩

/-- Two fills side by side. -/
theorem Fills.trans {lo m n : Nat} {s t u : State} (h : Fills lo m s t) (g : Fills (lo + m) n t u) :
    Fills lo (m + n) s u := by
  obtain ⟨es, as, h⟩ := h
  obtain ⟨fs, bs, g⟩ := g
  refine ⟨es ++ fs, as ++ bs, by rw [g.trace, h.trace, List.append_assoc],
    by rw [g.timeouts, h.timeouts, List.append_assoc], fun k hk => ?_, fun k => ?_, fun hrx => ?_⟩
  · rw [g.outside k (by omega), h.outside k (by omega)]
  · rw [datainWords_append]
    rcases g.inside k with e | ⟨w, hw, e⟩
    · rcases h.inside k with e' | ⟨w, hw, e'⟩
      · exact .inl (e.trans e')
      · exact .inr ⟨w, List.mem_append_left _ hw, e.trans e'⟩
    · exact .inr ⟨w, List.mem_append_right _ hw, e⟩
  · obtain ⟨has, hbs⟩ := List.forall_mem_append.1 hrx
    rw [datainWords_append, List.map_append, h.exact has, g.exact hbs, List.range_add, List.map_append, List.map_map]
    congr 1
    · refine List.map_congr_left fun k hk => (g.outside _ (.inl ?_)).symm
      have := List.mem_range.1 hk
      omega
    · exact List.map_congr_left fun k _ => by simp [Nat.add_assoc]

theorem Fills.withWork {lo n : Nat} {s t : State} (h : Fills lo n s t) (w : Work) : Fills lo n s (t.withWork w) := by
  obtain ⟨evs, ts, h⟩ := h
  exact ⟨evs, ts, h.trace, h.timeouts, h.outside, h.inside, h.exact⟩

/-- One byte position of BUSR. -/
theorem busrPosition_fills (s : State) : Fills (s.work.bo + s.work.i).toNat 1 s (busrPosition s) := by
  obtain ⟨vs, j, v, e, m, evs, ts, h, -, hcase⟩ := busrPosition_spec s
  have hstatus : datainWords (vs.map (Event.read .status)) = [] :=
    datainWords_eq_nil (by simp [Event.NotDatain])
  rw [h]
  refine ⟨evs, ts, ?_⟩
  generalize (s.work.bo + s.work.i).toNat = p at hcase ⊢
  rcases hcase with ⟨rfl, -, rfl, rfl⟩ | ⟨rfl, -, rfl, rfl⟩
  · have hbuf : ∀ k, (received s (s.work.i + 1#32) j v e (Memory.write s.buf p v.lowByte)
        (vs.map (Event.read .status) ++ [.read .datain v]) []).bufByte k = if k = p then v.lowByte else s.bufByte k :=
      fun k => (State.bufByte_congr (s := s.bufStore p v.lowByte) rfl k).trans (State.bufByte_bufStore s p k _)
    have hwords : datainWords (vs.map (Event.read .status) ++ [.read .datain v]) = [v] := by
      rw [datainWords_append, hstatus]
      rfl
    refine ⟨rfl, rfl, fun k hk => ?_, fun k => ?_, fun _ => ?_⟩
    · rw [hbuf, if_neg (by omega)]
    · rw [hbuf, hwords]
      by_cases hk : k = p
      · exact .inr ⟨v, List.mem_singleton_self v, if_pos hk⟩
      · exact .inl (if_neg hk)
    · rw [hwords]
      simp [hbuf]
  · exact ⟨rfl, rfl, fun _ _ => rfl, fun _ => .inl rfl, fun hrx => nomatch hrx _ (List.mem_singleton_self _)⟩

/-- `n` byte positions of BUSR. -/
theorem busrLoop_fills (n : Nat) (s : State) (hfit : s.work.bo.toNat + s.work.i.toNat + n < 2 ^ 32) :
    Fills (s.work.bo.toNat + s.work.i.toNat) n s (busrLoop n s) := by
  induction n generalizing s with
  | zero => exact fills_none _ rfl (.silent rfl rfl) ⟨[], (List.append_nil _).symm⟩
  | succ n ih =>
    have hidx : (s.work.bo + s.work.i).toNat = s.work.bo.toNat + s.work.i.toNat := by bv_omega
    have hfirst := busrPosition_fills s
    obtain ⟨_, _, _, _, _, _, _, h, -⟩ := busrPosition_spec s
    have hbo : (busrPosition s).work.bo = s.work.bo := by rw [h]; rfl
    have hi : (busrPosition s).work.i.toNat = s.work.i.toNat + 1 := by
      rw [h]
      show (s.work.i + 1#32).toNat = _
      bv_omega
    have hrest := ih (busrPosition s) (by rw [hbo, hi]; omega)
    rw [hbo, hi, ← Nat.add_assoc] at hrest
    rw [hidx] at hfirst
    have hboth := hfirst.trans hrest
    rw [Nat.add_comm 1 n] at hboth
    exact hboth

/-- BUSR fills its `TN` bytes from `BO` on (R111). -/
theorem busr_fills (bo tn : Word) (s : State) (hfit : bo.toNat + tn.toNat < 2 ^ 32) :
    Fills bo.toNat tn.toNat s (busr bo tn s) := by
  have hemits : Emits Event.NotDatain s (busrStart (s.setBusr bo tn)) :=
    ((emits_busWrite (v := tn - 1#32) (fun _ => nofun) (s.setBusr bo tn)).trans
      (emits_busWrite (fun _ => nofun) _)).setI 0#32
  have hstart : Fills bo.toNat 0 s (busrStart (s.setBusr bo tn)) :=
    fills_none _ rfl hemits ⟨[], (List.append_nil _).symm⟩
  have hloop : Fills bo.toNat tn.toNat (busrStart (s.setBusr bo tn))
      (busrLoop tn.toNat (busrStart (s.setBusr bo tn))) :=
    busrLoop_fills tn.toNat (busrStart (s.setBusr bo tn)) hfit
  obtain ⟨vs, j, v, e, ts, hw, -⟩ := waitIdle_spec .busyR (busrLoop tn.toNat (busrStart (s.setBusr bo tn)))
  have hbuf : (busr bo tn s).buf = (busrLoop tn.toNat (busrStart (s.setBusr bo tn))).buf :=
    (congrArg State.buf hw).trans rfl
  have hend : Fills (bo.toNat + tn.toNat) 0 (busrLoop tn.toNat (busrStart (s.setBusr bo tn))) (busr bo tn s) :=
    fills_none _ hbuf (waitIdle_emits (fun _ _ => nofun) _ _) ⟨ts, congrArg State.timeouts hw⟩
  exact Nat.zero_add tn.toNat ▸ hstart.trans (hloop.trans hend)

/-- `ReadAt` fills its slice of BUF; its page select and its dummy write leave BUF (R134). -/
theorem readAt_fills (n : Word) (s : State) (hfit : s.work.bo.toNat + n.toNat < 2 ^ 32) :
    Fills s.work.bo.toNat n.toNat s (readAt n s) := by
  have hselect : Emits Event.NotDatain s (pageSelect s.work.a s) := pageSelect_emits fun _ _ => nofun
  have hdummy : Emits Event.NotDatain (pageSelect s.work.a s) (busw s.work.a s.work.bo 0#32 (pageSelect s.work.a s)) :=
    busw_emits (fun _ _ => nofun) (fun _ _ => nofun) (fun _ => nofun) _ _ (fun _ => nofun)
  have hbuf : (busw s.work.a s.work.bo 0#32 (pageSelect s.work.a s)).buf = s.buf :=
    (busw_leaves _ _ _ _).1.trans (pageSelect_leaves _ s).1
  have hkept := (pageSelect_kept s.work.a s).trans (busw_kept s.work.a s.work.bo 0#32 (pageSelect s.work.a s))
  have hprimed := fills_none s.work.bo.toNat hbuf (hselect.trans hdummy) hkept.timeouts
  exact Nat.zero_add n.toNat ▸ hprimed.trans (busr_fills _ _ _ hfit)

/-- The slices of a read fill BUF one after the other, from its start. -/
theorem fills_carries (z : Word) {total : Nat} (htotal : total < 2 ^ 32) (s : State) :
    CarriesSlices z readAt total (fun m _ t => Fills 0 m s t) := by
  refine ⟨fun _ _ _ w _ h => h.withWork w, fun m _ n t _ hbo hfit h => h.trans ?_⟩
  have hslice := readAt_fills n t (by omega)
  rw [hbo] at hslice
  exact (Nat.zero_add m).symm ▸ hslice

theorem fills_refl (s : State) : Fills 0 0 s s :=
  fills_none 0 rfl (.silent rfl rfl) ⟨[], (List.append_nil _).symm⟩

/-- EERD (R134). -/
theorem eerd_fills (s : State) : Fills 0 s.work.len.toNat s (eerd s) :=
  eerd_carries (P := fun m _ t => Fills 0 m s t) (fills_carries _ s.work.len.isLt s) rfl (fills_refl s)

/-- EERD1 (R137). -/
theorem eerd1_fills (s : State) : Fills 0 s.work.len.toNat s (eerd1 s) :=
  eerd1_carries (z := 1#32) (P := fun m _ t => Fills 0 m s t) (fills_carries _ s.work.len.isLt s) rfl (fills_refl s)

/-- Settles O32: the slices fill BUF one after the other. -/
theorem mapperReadsFillBuf : Obligations.MapperReadsFillBuf := by
  intro s i a n hi hacc
  have hfills : Fills 0 n.toNat (latch i s) (commandBody i (latch i s)) := by
    rcases hi with rfl | rfl
    · exact eerd_fills (latch (.eerd a n) s)
    · exact eerd1_fills (latch (.eerd1 a n) s)
  obtain ⟨evs, ts, h⟩ := hfills
  refine ⟨_, evs, ts, exec_accepts hacc, h.trace, h.timeouts, fun k hk => h.outside k (.inr (by omega)),
    fun k _ => h.inside k, fun hrx => ?_⟩
  have hexact := h.exact hrx
  simp only [Nat.zero_add] at hexact
  exact hexact

end Sys2Proof.Machine
end

section
/-! PROOFS. The register bus (R51 to R56) and the address bits the EEPROM keeps (R62, R63): two logical addresses that
agree in them make every command do the same. -/

namespace Sys2Proof.Machine

/-! ### The bus addresses (R51, R52) -/

/-- The controller's offsets are multiples of 4 inside its window. -/
theorem offset_aligned {r : Reg} {o : Nat} (h : r.offset = some o) : o % 4 = 0 ∧ o < 0x24 := by
  cases r <;> cases h <;> decide

theorem offset_injective {r r' : Reg} (h : r.offset = r'.offset) : r = r' := by
  revert h
  cases r <;> cases r' <;> decide

theorem busAddr_of_offset {r : Reg} {o : Nat} (c : Config) (h : r.offset = some o) : r.busAddr c = c.i2cBase + o := by
  simp only [Reg.busAddr, h]

theorem busAddr_of_no_offset {r : Reg} (c : Config) (h : r.offset = none) : r.busAddr c = c.rstctrlAddr := by
  simp only [Reg.busAddr, h]

theorem busAddr_aligned {c : Config} (hv : c.Valid) (r : Reg) : r.busAddr c % 4 = 0 := by
  obtain ⟨-, -, -, -, ⟨hbase, hrst⟩, -⟩ := hv
  cases h : r.offset with
  | none => rwa [busAddr_of_no_offset c h]
  | some o =>
    obtain ⟨ho, -⟩ := offset_aligned h
    rw [busAddr_of_offset c h]
    omega

/-- Two registers of the controller differ in their offsets, and RSTCTRL lies outside the window (R52). -/
theorem busAddr_injective {c : Config} (hv : c.Valid) {r r' : Reg} (h : r.busAddr c = r'.busAddr c) : r = r' := by
  obtain ⟨-, -, -, -, -, hwindow⟩ := hv
  apply offset_injective
  cases hr : r.offset with
  | none =>
    rw [busAddr_of_no_offset c hr] at h
    cases hr' : r'.offset with
    | none => rfl
    | some o' =>
      obtain ⟨-, ho'⟩ := offset_aligned hr'
      rw [busAddr_of_offset c hr'] at h
      omega
  | some o =>
    obtain ⟨-, ho⟩ := offset_aligned hr
    rw [busAddr_of_offset c hr] at h
    cases hr' : r'.offset with
    | none =>
      rw [busAddr_of_no_offset c hr'] at h
      omega
    | some o' =>
      rw [busAddr_of_offset c hr'] at h
      exact congrArg some (Nat.add_left_cancel h)

/-- Settles O43: the offsets of R51 by evaluation, alignment and distinctness by the window of R52. -/
theorem busAddressesAreAlignedAndDistinct : Obligations.BusAddressesAreAlignedAndDistinct := by
  intro c hv
  exact ⟨rfl, rfl, rfl, rfl, rfl, rfl, rfl, rfl, rfl, rfl, busAddr_aligned hv, fun _ _ => busAddr_injective hv⟩

/-! ### The primitives (R53, R54, R64, R104) -/

theorem setShadow_addr (r : OutReg) (v : Word) (c : CtrlRegs) : (setShadow r v c).addr = c.addr := by
  cases r <;> rfl

theorem shadowOf_setShadow_same (c : CtrlRegs) {r : OutReg} (h : r ≠ .rstctrl) (v : Word) :
    shadowOf (setShadow r v c) r = some v := by
  cases r with
  | rstctrl => exact absurd rfl h
  | _ => rfl

theorem shadowOf_setShadow_other (c : CtrlRegs) {r r' : OutReg} (h : r' ≠ r) (v : Word) :
    shadowOf (setShadow r v c) r' = shadowOf c r' := by
  simp [shadowOf_setShadow, h.symm]

/-- Settles O18: a primitive is its record update, and a write's shadow is that of `setShadow`. -/
theorem busAccessesAppendTheirEvent : Obligations.BusAccessesAppendTheirEvent := by
  intro s
  refine ⟨fun _ => rfl, fun r w => ⟨setShadow r w s.shadow, rfl, setShadow_addr r w _,
    fun h => shadowOf_setShadow_same _ h w, fun r' h => shadowOf_setShadow_other _ h w⟩, fun _ => rfl, ?_, ?_⟩
  · intro rest d v r henv
    rw [henv]
    rfl
  · intro ans d r w henv
    rw [henv]
    rfl

/-! ### Addresses that name the same cell (R62, R63) -/

/-- Two logical addresses agree in the bits the EEPROM keeps. -/
def SameCell (c : Config) (a b : Word) : Prop := a.toNat % c.eepromSize = b.toNat % c.eepromSize

/-- The EEPROM's size divides the 32-bit address space. -/
theorem eepromSize_dvd (c : Config) : c.eepromSize ∣ 2 ^ 32 := by
  unfold Config.eepromSize
  split <;> decide

/-- So the wrapping sums of R133 name the cell the unbounded ones do. -/
theorem cell_add (c : Config) (a w : Word) : (a + w).toNat % c.eepromSize = (a.toNat + w.toNat) % c.eepromSize := by
  rw [BitVec.toNat_add, Nat.mod_mod_of_dvd _ (eepromSize_dvd c)]

theorem SameCell.add {c : Config} {a b : Word} (h : SameCell c a b) (w : Word) : SameCell c (a + w) (b + w) := by
  rw [SameCell, cell_add, cell_add]
  exact Nat.ModEq.add_right w.toNat h

theorem lowByte_toNat (a : Word) : a.lowByte.toNat = a.toNat % 256 := by
  simp [Word.lowByte, BitVec.extractLsb'_toNat]

theorem highByte_toNat (a : Word) : a.highByte.toNat = a.toNat / 256 % 256 := by
  simp [Word.highByte, BitVec.extractLsb'_toNat, Nat.shiftRight_eq_div_pow]

theorem pageOf_toNat (a : Word) : (pageOf a).toNat = a.toNat / 256 % 8 := by
  simp [pageOf, BitVec.extractLsb'_toNat, Nat.shiftRight_eq_div_pow]

theorem SameCell.lowByte {c : Config} {a b : Word} (h : SameCell c a b) : b.lowByte = a.lowByte := by
  apply BitVec.eq_of_toNat_eq
  rw [lowByte_toNat, lowByte_toNat]
  unfold SameCell Config.eepromSize at h
  split at h <;> omega

theorem SameCell.highByte {c : Config} {a b : Word} (h : SameCell c a b) (h2 : c.addrBytes = 2) :
    b.highByte = a.highByte := by
  apply BitVec.eq_of_toNat_eq
  rw [highByte_toNat, highByte_toNat]
  unfold SameCell Config.eepromSize at h
  rw [if_neg (by omega)] at h
  omega

theorem SameCell.page {c : Config} {a b : Word} (h : SameCell c a b) (h1 : c.addrBytes = 1) :
    pageOf b = pageOf a := by
  apply BitVec.eq_of_toNat_eq
  rw [pageOf_toNat, pageOf_toNat]
  unfold SameCell Config.eepromSize at h
  rw [if_pos h1] at h
  omega

theorem SameButWork.symm {s t : State} (h : SameButWork s t) : SameButWork t s := by
  obtain ⟨_, rfl⟩ := h.exists_withWork
  rfl

theorem SameButWork.trans {s t u : State} (h : SameButWork s t) (g : SameButWork t u) : SameButWork s u := by
  obtain ⟨_, rfl⟩ := h.exists_withWork
  obtain ⟨_, rfl⟩ := g.exists_withWork
  rfl

/-! ### One transaction at either address -/

theorem pageSelect_sameCell {a b : Word} {s : State} (h : SameCell s.cfg a b) : pageSelect b s = pageSelect a s := by
  unfold pageSelect
  split
  · next h1 => rw [shiftedPage, shiftedPage, h.page h1]
  · rfl

theorem firstByte_sameCell {s t : State} (hcfg : t.cfg = s.cfg) (h : SameCell s.cfg s.work.ta t.work.ta) :
    firstByte t = firstByte s := by
  unfold firstByte
  rw [hcfg, h.lowByte]
  split
  · next h2 => rw [h.highByte h2]
  · rfl

/-- BUSW at the same position of two transactions whose addresses name the same cell. -/
structure SameSends (s t : State) : Prop extends SamePosition s t where
  cell : SameCell s.cfg s.work.ta t.work.ta

theorem SameSends.nextByte {s t : State} (h : SameSends s t) : nextByte t = nextByte s := by
  simp only [Machine.nextByte, h.same.cfg, h.cell.lowByte, h.bo, h.i, State.bufByte_congr h.same.buf]

theorem poll_sameSends (test : Word → Bool) (n : Nat) {s t : State} (h : SameSends s t) :
    (poll test n t).1 = (poll test n s).1 ∧ SameSends (poll test n s).2 (poll test n t).2 := by
  obtain ⟨hok, hp⟩ := poll_samePosition test n h.toSamePosition
  obtain ⟨_, _, _, _, _, hs, -⟩ := poll_spec test n s
  have hcfg : (poll test n s).2.cfg = s.cfg := by rw [hs]; rfl
  refine ⟨hok, hp, ?_⟩
  rw [hcfg, (poll_leaves test n s).1, (poll_leaves test n t).1]
  exact h.cell

theorem SameSends.next {s t : State} (h : SameSends s t) :
    SameSends (s.setI (s.work.i + 1#32)) (t.setI (t.work.i + 1#32)) := ⟨h.toSamePosition.next, h.cell⟩

theorem SameSends.busWrite {s t : State} (h : SameSends s t) (r : OutReg) (v : Word) :
    SameSends (busWrite r v s) (busWrite r v t) := ⟨⟨h.same.busWrite r v, h.bo, h.i⟩, h.cell⟩

theorem SameSends.noteTimeout {s t : State} (h : SameSends s t) (mark : Word → Timeout) :
    SameSends (s.noteTimeout (mark s.work.i)) (t.noteTimeout (mark t.work.i)) :=
  ⟨h.toSamePosition.noteTimeout mark, h.cell⟩

theorem buswPosition_sameSends {s t : State} (h : SameSends s t) : SameSends (buswPosition s) (buswPosition t) := by
  obtain ⟨hok, hp⟩ := poll_sameSends statusTxEmpty s.cfg.maxBusyLoop h
  unfold buswPosition pollSet
  refine SameSends.next ?_
  rw [h.same.cfg, hok, hp.nextByte]
  split
  · exact hp.busWrite _ _
  · exact hp.noteTimeout .tx

theorem buswLoop_sameSends (n : Nat) {s t : State} (h : SameSends s t) : SameSends (buswLoop n s) (buswLoop n t) := by
  induction n generalizing s t with
  | zero => exact h
  | succ n ih => exact ih (buswPosition_sameSends h)

/-- BYTECNT, the first DATAOUT and STARTXFR leave the arguments of BUSW. -/
theorem buswStart_leaves (s : State) :
    (buswStart s).cfg = s.cfg ∧ (buswStart s).buf = s.buf ∧ (buswStart s).work.ta = s.work.ta ∧
      (buswStart s).work.bo = s.work.bo ∧ (buswStart s).work.tot = s.work.tot ∧ (buswStart s).work.i = 0#32 := by
  simp [buswStart]

theorem buswStart_sameSends {a b : Word} (bo tn : Word) {s t : State} (h : SameButWork s t)
    (hcell : SameCell s.cfg a b) :
    SameSends (buswStart (s.setBusw a bo tn)) (buswStart (t.setBusw b bo tn)) := by
  obtain ⟨w, rfl⟩ := h.exists_withWork
  obtain ⟨hcfg, -, hta, hbo, -, hi⟩ := buswStart_leaves (s.setBusw a bo tn)
  obtain ⟨-, -, hta', hbo', -, hi'⟩ := buswStart_leaves ((s.withWork w).setBusw b bo tn)
  refine ⟨⟨?_, by rw [hbo, hbo']; rfl, by rw [hi, hi']⟩, by rw [hcfg, hta, hta']; exact hcell⟩
  have hfirst : firstByte (busWrite .bytecnt (tn + s.cfg.addrWord - 1#32) ((s.withWork w).setBusw b bo tn)) =
      firstByte (busWrite .bytecnt (tn + s.cfg.addrWord - 1#32) (s.setBusw a bo tn)) := firstByte_sameCell rfl hcell
  simp only [buswStart, setBusw_work, State.withWork_cfg, hfirst]
  rfl

theorem busw_eq (ta bo tn : Word) (s : State) :
    busw ta bo tn s =
      waitIdle .busyW (buswLoop (tn + s.cfg.addrWord - 1#32).toNat (buswStart (s.setBusw ta bo tn))) := by
  obtain ⟨-, -, -, -, htot, -⟩ := buswStart_leaves (s.setBusw ta bo tn)
  simp only [busw, htot, setBusw_work]

/-- A write transaction sends only the kept bits of its address (R55, R63). -/
theorem busw_sameCell {a b : Word} (bo tn : Word) {s t : State} (h : SameButWork s t) (hcell : SameCell s.cfg a b) :
    SameButWork (busw a bo tn s) (busw b bo tn t) := by
  rw [busw_eq, busw_eq, h.cfg]
  exact waitIdle_sameButWork _ (buswLoop_sameSends _ (buswStart_sameSends bo tn h hcell)).same

/-- Equal but for the working registers, of which `A` names the same cell and `BO` agrees. -/
structure SameSliceCell (s t : State) : Prop where
  same : SameButWork s t
  cell : SameCell s.cfg s.work.a t.work.a
  bo : t.work.bo = s.work.bo

theorem SameSliceCell.selected {s t : State} (h : SameSliceCell s t) :
    SameButWork (pageSelect s.work.a s) (pageSelect t.work.a t) := by
  have hselect : pageSelect t.work.a t = pageSelect s.work.a t := pageSelect_sameCell (h.same.cfg ▸ h.cell)
  exact hselect ▸ pageSelect_sameButWork _ h.same

theorem readAt_sameCell (n : Word) {s t : State} (h : SameSliceCell s t) :
    SameButWork (readAt n s) (readAt n t) := by
  have hcell : SameCell (pageSelect s.work.a s).cfg s.work.a t.work.a := (pageSelect_kept _ s).cfg ▸ h.cell
  simp only [readAt, h.bo]
  exact busr_sameButWork _ _ (busw_sameCell _ _ h.selected hcell)

theorem writeAt_sameCell (n : Word) {s t : State} (h : SameSliceCell s t) :
    SameButWork (writeAt n s) (writeAt n t) := by
  have hcell : SameCell (pageSelect s.work.a s).cfg s.work.a t.work.a := (pageSelect_kept _ s).cfg ▸ h.cell
  simp only [writeAt, h.bo]
  exact (busw_sameCell _ _ h.selected hcell).delay _

/-! ### A transfer is its slices, one after the other -/

/-- One slice on its own: its address and BUF offset into their registers, then `act` for its length. -/
def runSlice (act : Word → State → State) (s : State) (p : Slice) : State :=
  act (BitVec.ofNat 32 p.len) (s.setSlice p.addr (BitVec.ofNat 32 p.offset))

/-- But for the working registers, the slices so far did what they do on their own. -/
theorem runSlices_carries (z : Word) {act : Word → State → State} (total : Nat) (s : State)
    (hact : ∀ n s t, SameSlice s t → SameButWork (act n s) (act n t)) :
    CarriesSlices z act total (fun _ ps t => SameButWork (ps.foldl (runSlice act) s) t) := by
  refine ⟨fun _ _ _ w _ h => h.trans (sameButWork_withWork _ w), ?_⟩
  rintro _ ps n t - rfl - h
  rw [List.foldl_append]
  simp only [List.foldl_cons, List.foldl_nil, runSlice, BitVec.ofNat_toNat, BitVec.setWidth_eq]
  exact hact n _ _ ⟨h.withWork _ t.work, rfl, rfl⟩

theorem eerd_runSlices (s : State) :
    SameButWork ((slices 16 s.work.addr s.work.len.toNat).foldl (runSlice readAt) s) (eerd s) :=
  eerd_carries (P := fun _ ps t => SameButWork (ps.foldl (runSlice readAt) s) t)
    (runSlices_carries _ _ s fun n _ _ => readAt_sameButWork n) rfl rfl

theorem eewr_runSlices (s : State) :
    SameButWork ((slices 8 s.work.addr s.work.len.toNat).foldl (runSlice writeAt) s) (eewr s) :=
  eewr_carries (P := fun _ ps t => SameButWork (ps.foldl (runSlice writeAt) s) t)
    (runSlices_carries _ _ s fun n _ _ => writeAt_sameButWork n) rfl rfl

theorem eerd1_runSlices (s : State) :
    SameButWork ((byteSlices s.work.addr s.work.len.toNat).foldl (runSlice readAt) s) (eerd1 s) :=
  eerd1_carries (z := 1#32) (P := fun _ ps t => SameButWork (ps.foldl (runSlice readAt) s) t)
    (runSlices_carries _ _ s fun n _ _ => readAt_sameButWork n) rfl rfl

/-- The slice with its address `d` further on. -/
def Slice.shift (d : Word) (p : Slice) : Slice := { p with addr := p.addr + d }

theorem slices_shift (z : Nat) (a d : Word) (n : Nat) : slices z (a + d) n = (slices z a n).map (Slice.shift d) := by
  simp [slices, Slice.shift, Function.comp_def, add_right_comm]

theorem byteSlices_shift (a d : Word) (n : Nat) : byteSlices (a + d) n = (byteSlices a n).map (Slice.shift d) := by
  simp [byteSlices, Slice.shift, Function.comp_def, add_right_comm]

/-- Slices shifted to addresses of the same cells do the same. -/
theorem runSlices_shift {act : Word → State → State} (hkept : ∀ n s, KeptLoop s (act n s))
    (hact : ∀ n s t, SameSliceCell s t → SameButWork (act n s) (act n t)) {d : Word} (ps : List Slice) {s t : State}
    (hd : ∀ a, SameCell s.cfg a (a + d)) (h : SameButWork s t) :
    SameButWork (ps.foldl (runSlice act) s) ((ps.map (Slice.shift d)).foldl (runSlice act) t) := by
  induction ps generalizing s t with
  | nil => exact h
  | cons p ps ih =>
    have hslice : SameButWork (runSlice act s p) (runSlice act t (p.shift d)) :=
      hact _ _ _ ⟨h.withWork _ _, hd p.addr, rfl⟩
    have hcfg : (runSlice act s p).cfg = s.cfg := (hkept _ _).cfg
    exact ih (hcfg.symm ▸ hd) hslice

/-- The slices of two transfers whose addresses name the same cell. -/
theorem transfer_sameCell {act : Word → State → State} (hkept : ∀ n s, KeptLoop s (act n s))
    (hact : ∀ n s t, SameSliceCell s t → SameButWork (act n s) (act n t)) {sl : Word → Nat → List Slice}
    {body : State → State}
    (hshift : ∀ a d n, sl (a + d) n = (sl a n).map (Slice.shift d))
    (hbody : ∀ s, SameButWork ((sl s.work.addr s.work.len.toNat).foldl (runSlice act) s) (body s))
    {s t : State} (h : SameButWork s t) (hcell : SameCell s.cfg s.work.addr t.work.addr)
    (hlen : t.work.len = s.work.len) : SameButWork (body s) (body t) := by
  have hd : ∀ a, SameCell s.cfg a (a + (t.work.addr - s.work.addr)) := fun a => by
    have hadd := hcell.add (a - s.work.addr)
    rwa [add_sub_cancel, add_sub_left_comm] at hadd
  have hrun := runSlices_shift hkept hact (sl s.work.addr s.work.len.toNat) hd h
  rw [← hshift, add_sub_cancel] at hrun
  exact ((hbody s).symm.trans hrun).trans (hlen ▸ hbody t)

theorem eerd_sameCell {s t : State} (h : SameButWork s t) (hcell : SameCell s.cfg s.work.addr t.work.addr)
    (hlen : t.work.len = s.work.len) : SameButWork (eerd s) (eerd t) :=
  transfer_sameCell readAt_kept (fun n _ _ => readAt_sameCell n) (slices_shift 16) eerd_runSlices h hcell hlen

theorem eerd1_sameCell {s t : State} (h : SameButWork s t) (hcell : SameCell s.cfg s.work.addr t.work.addr)
    (hlen : t.work.len = s.work.len) : SameButWork (eerd1 s) (eerd1 t) :=
  transfer_sameCell readAt_kept (fun n _ _ => readAt_sameCell n) byteSlices_shift eerd1_runSlices h hcell hlen

theorem eewr_sameCell {s t : State} (h : SameButWork s t) (hcell : SameCell s.cfg s.work.addr t.work.addr)
    (hlen : t.work.len = s.work.len) : SameButWork (eewr s) (eewr t) :=
  transfer_sameCell writeAt_kept (fun n _ _ => writeAt_sameCell n) (slices_shift 8) eewr_runSlices h hcell hlen

/-! ### The commands -/

/-- A command does the same for two latched addresses that name the same cell. -/
theorem commandBody_sameCell (i : Instr) {s t : State} (h : SameButWork s t)
    (hcell : SameCell s.cfg s.work.addr t.work.addr) (hlen : t.work.len = s.work.len) :
    SameButWork (commandBody i s) (commandBody i t) := by
  have hinit := busInit_sameButWork h
  have hinitCell : SameCell (busInit s).cfg (busInit s).work.addr (busInit t).work.addr :=
    (busInit_cfg s).symm ▸ hcell
  have hinitLen : (busInit t).work.len = (busInit s).work.len := hlen
  cases i with
  | init _ _ => exact hinit
  | read _ _ => exact eerd_sameCell hinit hinitCell hinitLen
  | write _ _ => exact eewr_sameCell hinit hinitCell hinitLen
  | dump _ _ =>
    obtain ⟨w, rfl⟩ := h.exists_withWork
    rfl
  | busw _ _ =>
    simp only [commandBody, hlen]
    exact busw_sameCell _ _ h hcell
  | busr _ _ =>
    simp only [commandBody, hlen]
    exact busr_sameButWork _ _ h
  | eerd _ _ => exact eerd_sameCell h hcell hlen
  | eerd1 _ _ => exact eerd1_sameCell h hcell hlen
  | eewr _ _ => exact eewr_sameCell h hcell hlen

/-- Another address is accepted as well, and only the latched operand differs. -/
theorem exec_withAddress {i : Instr} {s : State} (h : Accepts i s) (a : Word) :
    exec (withAddress a i) s =
      .next ((commandBody i ((latch i s).withWork { (latch i s).work with addr := a })).withRun .idle) := by
  cases i <;> exact exec_accepts h

/-- Settles O45: both runs start from latched addresses that name the same cell. -/
theorem addressesWrapSilently : Obligations.AddressesWrapSilently := by
  intro i s a h hmod
  refine ⟨_, _, exec_accepts h, exec_withAddress h a, ?_⟩
  have hcell : SameCell s.cfg i.address a := hmod.symm
  exact (commandBody_sameCell i (sameButWork_withWork (latch i s) { (latch i s).work with addr := a }) hcell
    rfl).withRun _

end Sys2Proof.Machine
end

section
/-! PROOFS. ENV_IDEAL (R66) under the ENGINE and the MAPPER: a write transaction stores its payload from its address on,
a read answers the cells, and so EERD returns what EEWR wrote (R67, R138, R146). -/

namespace Sys2Proof.Machine

/-! ### ENV_IDEAL accepts a write transaction -/

namespace Ideal

/-- Bytes accepted one after the other. -/
def acceptAll (c : Config) (bs : List Byte) (e : Ideal) : Ideal := bs.foldl (fun e b => e.accept c b) e

theorem acceptAll_cons (c : Config) (b : Byte) (bs : List Byte) (e : Ideal) :
    acceptAll c (b :: bs) e = acceptAll c bs (e.accept c b) := rfl

theorem accept_last (c : Config) (b : Byte) {e : Ideal} (h : e.left = 1) :
    e.accept c b = finish c { e with rx := e.rx ++ [b], left := 0 } := by
  simp [accept, h]

theorem accept_more (c : Config) (b : Byte) {e : Ideal} {n : Nat} (h : e.left = n + 2) :
    e.accept c b = { e with rx := e.rx ++ [b], left := n + 1 } := by
  simp [accept, h]

/-- The transaction is finished with the last of the bytes BYTECNT announced. -/
theorem acceptAll_eq (c : Config) (b : Byte) (bs : List Byte) {e : Ideal} (h : e.left = bs.length + 1) :
    acceptAll c (b :: bs) e = finish c { e with rx := e.rx ++ b :: bs, left := 0 } := by
  induction bs generalizing b e with
  | nil => exact accept_last c b h
  | cons b' bs ih =>
    have hrest := ih b' (e := { e with rx := e.rx ++ [b], left := bs.length + 1 }) rfl
    rw [List.append_assoc] at hrest
    rw [acceptAll_cons, accept_more c b h]
    exact hrest

/-- Two bytes of a transfer of at most `size` bytes have different cells (R67). -/
theorem cell_ne {size p k j : Nat} (hkj : k < j) (hround : j < size + k) : (p + k) % size ≠ (p + j) % size := by
  intro heq
  have hdvd := (Nat.modEq_iff_dvd' (by omega)).1 heq
  rw [Nat.add_sub_add_left] at hdvd
  exact absurd (Nat.le_of_dvd (by omega) hdvd) (by omega)

/-- The bytes `bs` stand in the cells from `p` on, and every other cell is as it was. -/
structure Written (size p : Nat) (bs : List Byte) (m m' : Memory) : Prop where
  inside : ∀ j (h : j < bs.length), Memory.read m' ((p + j) % size) = some bs[j]
  outside : ∀ x, (∀ j, j < bs.length → x ≠ (p + j) % size) → Memory.read m' x = Memory.read m x

/-- Within one round of the EEPROM no byte is stored over another. -/
theorem store_written {size p : Nat} (bs : List Byte) {e : Ideal} (hptr : e.ptr = p % size)
    (hfit : bs.length ≤ size) : Written size p bs e.mem (store size bs e).mem := by
  induction bs generalizing p e with
  | nil => exact ⟨fun _ h => absurd h (Nat.not_lt_zero _), fun _ _ => rfl⟩
  | cons b bs ih =>
    simp only [List.length_cons] at hfit
    have hnext : (e.ptr + 1) % size = (p + 1) % size := by rw [hptr, Nat.mod_add_mod]
    obtain ⟨hin, hout⟩ := ih (p := p + 1)
      (e := { e with mem := Memory.write e.mem e.ptr b, ptr := (e.ptr + 1) % size }) hnext (by omega)
    have hshift : ∀ j, p + 1 + j = p + (j + 1) := fun j => by omega
    simp only [hshift] at hin hout
    refine ⟨fun j hj => ?_, fun x hx => ?_⟩
    · cases j with
      | zero =>
        have hfirst : ∀ j, j < bs.length → (p + 0) % size ≠ (p + (j + 1)) % size :=
          fun j hj => cell_ne j.succ_pos (by omega)
        rw [store, hout _ hfirst, Nat.add_zero, ← hptr, Memory.read_write_same]
        rfl
      | succ j => exact hin j (Nat.lt_of_succ_lt_succ hj)
    · rw [store, hout x fun j hj => hx (j + 1) (Nat.succ_lt_succ hj),
        Memory.read_write_other _ _ (hptr ▸ hx 0 (Nat.succ_pos _))]

/-- The end of a transaction that carried the address `a` and then `data`, with `a`'s page selected (R62, R66). -/
theorem finish_eq {c : Config} (hc : c.addrBytes = 1 ∨ c.addrBytes = 2) {a : Word} {data : List Byte} {e : Ideal}
    (hrx : e.rx = addressBytes c a ++ data) (hdev : c.addrBytes = 1 → e.dev.extractLsb' 0 3 = pageOf a) :
    finish c e = { store c.eepromSize data { e with ptr := a.toNat % c.eepromSize } with mode := .idle } := by
  rcases hc with h | h
  · have hp : (pageOf a).toNat * 256 + a.lowByte.toNat = a.toNat % 2048 := by
      rw [pageOf_toNat, lowByte_toNat]
      omega
    simp [finish, hrx, hdev h, addressBytes, h, Config.eepromSize, hp]
  · have hp : a.highByte.toNat * 256 + a.lowByte.toNat = a.toNat % 65536 := by
      rw [highByte_toNat, lowByte_toNat]
      omega
    simp [finish, hrx, addressBytes, h, Config.eepromSize, hp]

theorem finish_mode (c : Config) (e : Ideal) : (finish c e).mode = .idle := rfl

/-! ### Its STATUS -/

theorem statusIdle_status {e : Ideal} (h : e.mode = .idle) : statusIdle e.status = true := by
  simp [status, statusIdle, h]

theorem statusTxEmpty_status {e : Ideal} (h : e.mode = .tx) : statusTxEmpty e.status = true := by
  simp [status, statusTxEmpty, h]

theorem statusDataReady_status {e : Ideal} (h : e.mode = .rx) (hleft : 0 < e.left) :
    statusDataReady e.status = true := by
  simp [status, statusDataReady, h, hleft]

end Ideal

/-! ### Polls that hit at once -/

theorem poll_first {test : Word → Bool} {n : Nat} {s : State} (hn : 0 < n)
    (h : test (s.env.answer s.cfg .status).1 = true) : poll test n s = (true, busRead .status (s.setJ 0#32)) := by
  obtain ⟨n, rfl⟩ := Nat.exists_eq_succ_of_ne_zero hn.ne'
  simp [poll, pollLoop, h]

theorem waitIdle_first {s : State} {m : Timeout} (hd : DividerOk s.cfg)
    (h : statusIdle (s.env.answer s.cfg .status).1 = true) : waitIdle m s = busRead .status (s.setJ 0#32) := by
  simp only [waitIdle, poll_first hd.busyLoop.1 h, if_true]

theorem buswPosition_first {s : State} (hd : DividerOk s.cfg)
    (h : statusTxEmpty (s.env.answer s.cfg .status).1 = true) :
    buswPosition s =
      (busWrite .dataout (nextByte s) (busRead .status (s.setJ 0#32))).setI (s.work.i + 1#32) := by
  simp only [buswPosition, pollSet, poll_first hd.maxBusyLoop.1 h, if_true]
  rfl

/-- The DATAIN read of a position whose first sample is ready. -/
def datainRead (s : State) : State := busRead .datain (busRead .status (s.setJ 0#32))

theorem busrPosition_first {s : State} (hd : DividerOk s.cfg)
    (h : statusDataReady (s.env.answer s.cfg .status).1 = true) :
    busrPosition s =
      ((datainRead s).bufStore (s.work.bo + s.work.i).toNat (datainRead s).work.v.lowByte).setI
        (s.work.i + 1#32) := by
  simp only [busrPosition, pollSet, poll_first hd.maxBusyLoop.1 h, if_true]
  rfl

/-! ### The bytes of a write transaction (R108, R109) -/

@[simp] theorem lowByte_toWord (b : Byte) : b.toWord.lowByte = b := by
  apply BitVec.eq_of_toNat_eq
  rw [lowByte_toNat, Byte.toWord, BitVec.toNat_setWidth]
  omega

/-- The next `n` bytes of BUSW's loop. -/
def nextBytes (n : Nat) (s : State) : List Byte :=
  (List.range n).map fun k => (nextByte (s.setI (s.work.i + BitVec.ofNat 32 k))).lowByte

theorem nextBytes_succ (n : Nat) (s : State) :
    nextBytes (n + 1) s = (nextByte s).lowByte :: nextBytes n (s.setI (s.work.i + 1#32)) := by
  have hfirst : nextByte (s.setI (s.work.i + BitVec.ofNat 32 0)) = nextByte s :=
    nextByte_congr rfl rfl rfl rfl (BitVec.add_zero _)
  rw [nextBytes, List.range_succ_eq_map, List.map_cons, List.map_map, hfirst, nextBytes]
  refine congrArg _ (List.map_congr_left fun k _ => congrArg Word.lowByte (nextByte_congr rfl rfl rfl rfl ?_))
  simp only [setI_work, Nat.succ_eq_add_one]
  bv_omega

theorem nextBytes_congr {s t : State} (n : Nat) (hc : t.cfg = s.cfg) (hb : t.buf = s.buf)
    (h1 : t.work.ta = s.work.ta) (h2 : t.work.bo = s.work.bo) (h3 : t.work.i = s.work.i) :
    nextBytes n t = nextBytes n s :=
  List.map_congr_left fun _ _ => congrArg Word.lowByte (nextByte_congr hc hb h1 h2 (by simp [h3]))

/-- The byte of BUF a position sends. -/
theorem bufByte_position (s : State) {bo : Word} {n k : Nat} (hfit : bo.toNat + n < 2 ^ 32) (hk : k < n) :
    s.bufByte (bo + BitVec.ofNat 32 k).toNat = s.bufByte (bo.toNat + k) := by
  congr 1
  bv_omega

/-- BUSW sends the address bytes and the payload, in bus order (R109). -/
theorem wireBytes_eq {s : State} (hc : s.cfg.addrBytes = 1 ∨ s.cfg.addrBytes = 2) (hi : s.work.i = 0#32) {n : Nat}
    (hfit : s.work.bo.toNat + n < 2 ^ 32) :
    (firstByte s).lowByte :: nextBytes (n + s.cfg.addrBytes - 1) s =
      wireBytes s s.work.ta s.work.bo.toNat n := by
  have hbuf : (List.range n).map (fun k => s.bufByte (s.work.bo + BitVec.ofNat 32 k).toNat) =
      (List.range n).map fun k => s.bufByte (s.work.bo.toNat + k) :=
    List.map_congr_left fun k hk => bufByte_position s hfit (List.mem_range.1 hk)
  rcases hc with h | h
  · have hnext : nextBytes n s = (List.range n).map fun k => s.bufByte (s.work.bo + BitVec.ofNat 32 k).toNat :=
      List.map_congr_left fun k _ => by simp [nextByte, h, hi, State.bufByte]
    rw [h, Nat.add_sub_cancel, hnext, hbuf]
    simp [firstByte, wireBytes, addressBytes, h]
  · have hnext : nextBytes n (s.setI (s.work.i + 1#32)) =
        (List.range n).map fun k => s.bufByte (s.work.bo + BitVec.ofNat 32 k).toNat := by
      refine List.map_congr_left fun k hk => ?_
      have hk' := List.mem_range.1 hk
      have hne : 1#32 + BitVec.ofNat 32 k ≠ 0#32 := by bv_omega
      have hpos : s.work.bo + (1#32 + BitVec.ofNat 32 k) - 1#32 = s.work.bo + BitVec.ofNat 32 k := by bv_omega
      simp [nextByte, h, hi, hne, hpos, State.bufByte]
    rw [h, show n + 2 - 1 = n + 1 from rfl, nextBytes_succ, hnext, hbuf]
    simp [firstByte, nextByte, wireBytes, addressBytes, h, hi]

/-! ### Transactions under ENV_IDEAL -/

/-- ENV is ENV_IDEAL in the state `e`, with no transaction in flight. -/
structure AtRest (s : State) (e : Ideal) : Prop where
  env : s.env = .ideal e
  mode : e.mode = .idle

theorem AtRest.withWork {s : State} {e : Ideal} (h : AtRest s e) (w : Work) : AtRest (s.withWork w) e :=
  ⟨h.env, h.mode⟩

theorem AtRest.delay {s : State} {e : Ideal} (h : AtRest s e) (n : Nat) : AtRest (delay n s) e :=
  ⟨h.env, h.mode⟩

/-- The completion poll leaves ENV_IDEAL as it is. -/
theorem AtRest.waitIdle {s : State} {e : Ideal} (h : AtRest s e) (hd : DividerOk s.cfg) (m : Timeout) :
    Machine.waitIdle m s = busRead .status (s.setJ 0#32) ∧ AtRest (Machine.waitIdle m s) e := by
  have hfirst := waitIdle_first (m := m) hd (by rw [h.env]; exact Ideal.statusIdle_status h.mode)
  refine ⟨hfirst, ?_, h.mode⟩
  rw [hfirst, busRead_env, setJ_env, h.env]
  rfl

theorem buswPosition_ideal {s : State} {e : Ideal} (hd : DividerOk s.cfg) (henv : s.env = .ideal e)
    (hmode : e.mode = .tx) : (buswPosition s).env = .ideal (e.accept s.cfg (nextByte s).lowByte) := by
  rw [buswPosition_first hd (by rw [henv]; exact Ideal.statusTxEmpty_status hmode)]
  simp [henv, Env.answer, Env.observe, Ideal.answer, Ideal.observe, hmode]

/-- Between the bytes of a transaction ENV_IDEAL waits for the next one. -/
theorem accept_waits (c : Config) (b : Byte) {e : Ideal} {n : Nat} (hmode : e.mode = .tx) (hleft : e.left = n + 1) :
    0 < n → (e.accept c b).mode = .tx ∧ (e.accept c b).left = n := by
  intro hn
  obtain ⟨n, rfl⟩ := Nat.exists_eq_succ_of_ne_zero hn.ne'
  rw [Ideal.accept_more c b hleft]
  exact ⟨hmode, rfl⟩

theorem buswPosition_cfg (s : State) : (buswPosition s).cfg = s.cfg := by
  obtain ⟨_, _, _, _, _, _, _, h, -⟩ := buswPosition_spec s
  rw [h]
  rfl

/-- BUSW's byte loop hands ENV_IDEAL the bytes it waits for. -/
theorem buswLoop_ideal (n : Nat) {s : State} {e : Ideal} (hd : DividerOk s.cfg) (henv : s.env = .ideal e)
    (hwaits : 0 < n → e.mode = .tx ∧ e.left = n) :
    (buswLoop n s).env = .ideal (e.acceptAll s.cfg (nextBytes n s)) := by
  induction n generalizing s e with
  | zero => exact henv
  | succ n ih =>
    obtain ⟨hmode, hleft⟩ := hwaits n.succ_pos
    have hcfg := buswPosition_cfg s
    have hbytes : nextBytes n (buswPosition s) = nextBytes n (s.setI (s.work.i + 1#32)) := by
      obtain ⟨_, _, _, _, _, _, _, hspec, -⟩ := buswPosition_spec s
      rw [hspec]
      exact nextBytes_congr n rfl rfl rfl rfl rfl
    rw [buswLoop, ih (hcfg.symm ▸ hd) (buswPosition_ideal hd henv hmode) (accept_waits _ _ hmode hleft), hcfg, hbytes,
      nextBytes_succ, Ideal.acceptAll_cons]

/-- ENV_IDEAL right before the first byte of a write transaction of `n + 1` bytes is taken. -/
def Ideal.started (e : Ideal) (n : Word) (b : Byte) : Ideal :=
  { e with cnt := n, hold := b, mode := .tx, left := n.toNat + 1, rx := [] }

theorem firstByte_congr {s t : State} (hc : t.cfg = s.cfg) (hta : t.work.ta = s.work.ta) :
    firstByte t = firstByte s := by
  simp only [firstByte, hc, hta]

theorem buswStart_ideal {s : State} {e : Ideal} (h : AtRest s e) :
    (buswStart s).env = .ideal ((e.started (s.work.tot - 1#32) (firstByte s).lowByte).accept s.cfg
      (firstByte s).lowByte) := by
  have hfirst : firstByte (busWrite .bytecnt (s.work.tot - 1#32) s) = firstByte s := firstByte_congr rfl rfl
  simp [buswStart, hfirst, h.env, h.mode, Env.observe, Ideal.observe, Ideal.started]

theorem wireBytes_congr {s t : State} (hc : t.cfg = s.cfg) (hb : t.buf = s.buf) (a : Word) (bo n : Nat) :
    wireBytes t a bo n = wireBytes s a bo n := by
  simp only [wireBytes, hc, State.bufByte_congr hb]

theorem buswLoop_cfg (n : Nat) (s : State) : (buswLoop n s).cfg = s.cfg := by
  obtain ⟨_, _, _, _, _, _, h⟩ := buswLoop_frame n s
  rw [h]
  rfl

theorem busrLoop_cfg (n : Nat) (s : State) : (busrLoop n s).cfg = s.cfg := by
  obtain ⟨_, _, _, _, _, _, h⟩ := busrLoop_frame n s
  rw [h]
  rfl

/-- From its start on BUSW sends the address `ta` and its slice of BUF. -/
theorem wireBytes_start {s : State} (hv : s.cfg.Valid) (ta bo : Word) {tn : Word} (hbuf : tn.toNat ≤ s.cfg.bufSize)
    (hfit : bo.toNat + tn.toNat < 2 ^ 32) :
    (firstByte (s.setBusw ta bo tn)).lowByte ::
      nextBytes (tn + s.cfg.addrWord - 1#32).toNat (buswStart (s.setBusw ta bo tn)) =
      wireBytes s ta bo.toNat tn.toNat := by
  obtain ⟨hcfg, hsbuf, hta, hbo, -, hi⟩ := buswStart_leaves (s.setBusw ta bo tn)
  rw [← firstByte_congr hcfg hta]
  simp only [setBusw_cfg, setBusw_buf, setBusw_work] at hcfg hsbuf hta hbo
  generalize buswStart (s.setBusw ta bo tn) = s1 at *
  rw [total_toNat hv hbuf, ← wireBytes_congr hcfg hsbuf, ← hta, ← hbo, ← hcfg]
  exact wireBytes_eq (hcfg.symm ▸ hv.1) hi (hbo.symm ▸ hfit)

/-- A write transaction ends with all its bytes accepted (R66, R109). -/
theorem busw_ideal {s : State} {e : Ideal} (h : AtRest s e) (hv : s.cfg.Valid) (ta bo : Word) {tn : Word}
    (hbuf : tn.toNat ≤ s.cfg.bufSize) (hfit : bo.toNat + tn.toNat < 2 ^ 32) :
    ∃ e1 : Ideal, e1.mem = e.mem ∧ e1.dev = e.dev ∧ e1.rx = wireBytes s ta bo.toNat tn.toNat ∧
      AtRest (busw ta bo tn s) (e1.finish s.cfg) := by
  have hd := dividerOk_of_valid hv
  have hset : AtRest (s.setBusw ta bo tn) e := ⟨h.env, h.mode⟩
  have hstart := buswStart_ideal hset
  have hwire := wireBytes_start hv ta bo hbuf hfit
  obtain ⟨hcfg, -⟩ := buswStart_leaves (s.setBusw ta bo tn)
  simp only [setBusw_cfg, setBusw_work] at hcfg hstart
  rw [busw_eq]
  generalize buswStart (s.setBusw ta bo tn) = s1 at *
  generalize (firstByte (s.setBusw ta bo tn)).lowByte = b at *
  have hloop := buswLoop_ideal _ (hcfg.symm ▸ hd) hstart (accept_waits s.cfg b rfl rfl)
  have hlen : (e.started (tn + s.cfg.addrWord - 1#32) b).left =
      (nextBytes (tn + s.cfg.addrWord - 1#32).toNat s1).length + 1 := by
    simp [Ideal.started, nextBytes]
  rw [hcfg, ← Ideal.acceptAll_cons, Ideal.acceptAll_eq _ _ _ hlen, hwire] at hloop
  have hrest : AtRest (buswLoop (tn + s.cfg.addrWord - 1#32).toNat s1) _ := ⟨hloop, Ideal.finish_mode _ _⟩
  refine ⟨_, ?_, ?_, ?_, (hrest.waitIdle (by rw [buswLoop_cfg, hcfg]; exact hd) .busyW).2⟩
  · rfl
  · rfl
  · rfl

/-- The page stands in the three low bits of the device address, where its base is 0 (R132). -/
theorem selectedDevice_page (a : Word) : (selectedDevice a).extractLsb' 0 3 = pageOf a := by
  unfold selectedDevice pageOf
  generalize a.extractLsb' 8 3 = p
  revert p
  decide

/-- The page select shows ENV_IDEAL the page of its address (R131). -/
theorem pageSelect_ideal {s : State} {e : Ideal} (h : AtRest s e) (a : Word) :
    ∃ e1 : Ideal, e1.mem = e.mem ∧ (s.cfg.addrBytes = 1 → e1.dev.extractLsb' 0 3 = pageOf a) ∧
      AtRest (pageSelect a s) e1 := by
  unfold pageSelect
  split
  · refine ⟨{ e with dev := selectedDevice a }, rfl, fun _ => selectedDevice_page a, ?_, h.mode⟩
    simp [deviceAddress_shiftedPage, h.env, Env.observe, Ideal.observe]
  · next h1 => exact ⟨e, rfl, fun h2 => absurd h2 h1, h⟩

/-- A write transaction with its page select stores its payload from its address on (R62, R66). -/
theorem send_ideal {s : State} {e : Ideal} (h : AtRest s e) (hv : s.cfg.Valid) (a bo : Word) {tn : Word}
    (hbuf : tn.toNat ≤ s.cfg.bufSize) (hfit : bo.toNat + tn.toNat < 2 ^ 32) :
    ∃ e1 : Ideal, e1.mem = e.mem ∧ e1.ptr = a.toNat % s.cfg.eepromSize ∧
      AtRest (busw a bo tn (pageSelect a s))
        { Ideal.store s.cfg.eepromSize ((List.range tn.toNat).map fun k => s.bufByte (bo.toNat + k)) e1 with
          mode := .idle } := by
  obtain ⟨e1, hmem, hdev, hselect⟩ := pageSelect_ideal h a
  have hcfg := (pageSelect_kept a s).cfg
  obtain ⟨e2, hmem2, hdev2, hrx, hsent⟩ :=
    busw_ideal hselect (hcfg.symm ▸ hv) a bo (tn := tn) (hcfg.symm ▸ hbuf) hfit
  rw [wireBytes_congr hcfg (pageSelect_leaves a s).1] at hrx
  rw [hcfg, Ideal.finish_eq hv.1 hrx (fun h1 => hdev2 ▸ hdev h1)] at hsent
  exact ⟨{ e2 with ptr := a.toNat % s.cfg.eepromSize }, hmem2.trans hmem, rfl, hsent⟩

/-- ENV_IDEAL inside a read transaction with `n` bytes still to come. -/
structure Receiving (n : Nat) (e : Ideal) : Prop where
  left : e.left = n
  mode : e.mode = if n = 0 then .idle else .rx

/-- What a cell of the EEPROM holds. -/
def cellAt (m : Memory) (x : Nat) : Byte := (Memory.read m x).getD (Config.eepromFree x)

/-- ENV_IDEAL after a DATAIN read. -/
def Ideal.afterDatain (c : Config) (e : Ideal) : Ideal := (e.answer c .datain).2

theorem Receiving.next {n : Nat} {e : Ideal} (h : Receiving (n + 1) e) (c : Config) :
    Receiving n (e.afterDatain c) := by
  obtain ⟨hleft, hmode⟩ := h
  refine ⟨by simp [Ideal.afterDatain, Ideal.answer, hleft], ?_⟩
  simp [Ideal.afterDatain, Ideal.answer, hleft, hmode]

/-- A position of BUSR reads the cell under the pointer into BUF. -/
theorem busrPosition_ideal {n : Nat} {s : State} {e : Ideal} (hd : DividerOk s.cfg) (henv : s.env = .ideal e)
    (hr : Receiving (n + 1) e) :
    (busrPosition s).env = .ideal (e.afterDatain s.cfg) ∧
      (busrPosition s).buf = (s.bufStore (s.work.bo + s.work.i).toNat (cellAt e.mem e.ptr)).buf := by
  obtain ⟨hleft, hmode⟩ := hr
  rw [busrPosition_first hd (by rw [henv]; exact Ideal.statusDataReady_status hmode (by omega))]
  simp [datainRead, henv, Env.answer, Ideal.answer, Ideal.afterDatain, cellAt, Ideal.cell]

/-- A position of BUSR leaves its arguments and goes on to the next one. -/
theorem busrPosition_leaves (s : State) :
    (busrPosition s).cfg = s.cfg ∧ (busrPosition s).work.bo = s.work.bo ∧
      (busrPosition s).work.i = s.work.i + 1#32 := by
  obtain ⟨_, _, _, _, _, _, _, h, -⟩ := busrPosition_spec s
  rw [h]
  exact ⟨rfl, rfl, rfl⟩

/-- BUSR's byte loop moves the cells from the pointer on into BUF. -/
theorem busrLoop_ideal (n p : Nat) {s : State} {e : Ideal} (hd : DividerOk s.cfg) (henv : s.env = .ideal e)
    (hr : Receiving n e) (hptr : e.ptr = p % s.cfg.eepromSize)
    (hfit : s.work.bo.toNat + s.work.i.toNat + n < 2 ^ 32) :
    ∃ e1 : Ideal, e1.mem = e.mem ∧ AtRest (busrLoop n s) e1 ∧
      ∀ j, j < n → (busrLoop n s).bufByte (s.work.bo.toNat + s.work.i.toNat + j) =
        cellAt e.mem ((p + j) % s.cfg.eepromSize) := by
  induction n generalizing p s e with
  | zero => exact ⟨e, rfl, ⟨henv, hr.mode⟩, fun _ hj => absurd hj (Nat.not_lt_zero _)⟩
  | succ n ih =>
    obtain ⟨hpenv, hpbuf⟩ := busrPosition_ideal hd henv hr
    obtain ⟨hcfg, hbo, hi'⟩ := busrPosition_leaves s
    have hi : (busrPosition s).work.i.toNat = s.work.i.toNat + 1 := by
      rw [hi']
      bv_omega
    have hidx : (s.work.bo + s.work.i).toNat = s.work.bo.toNat + s.work.i.toNat := by bv_omega
    have hpnext : (e.afterDatain s.cfg).ptr = (p + 1) % s.cfg.eepromSize := by
      simp [Ideal.afterDatain, Ideal.answer, hptr]
    have hrest : (busrPosition s).work.bo.toNat + (busrPosition s).work.i.toNat + n < 2 ^ 32 := by
      rw [hbo, hi]
      omega
    obtain ⟨e1, hmem, hdone, hcells⟩ :=
      ih (p + 1) (hcfg.symm ▸ hd) hpenv (hr.next s.cfg) (hcfg.symm ▸ hpnext) hrest
    obtain ⟨_, _, hfills⟩ := busrLoop_fills n (busrPosition s) hrest
    rw [hbo, hi] at hcells hfills
    refine ⟨e1, hmem, hdone, fun j hj => ?_⟩
    rw [busrLoop]
    cases j with
    | zero =>
      rw [hfills.outside _ (.inl (by omega)), State.bufByte_congr hpbuf, State.bufByte_bufStore, Nat.add_zero,
        Nat.add_zero, if_pos hidx.symm, hptr]
    | succ j =>
      have hcell := hcells j (Nat.lt_of_succ_lt_succ hj)
      rw [hcfg, Nat.add_right_comm p 1 j] at hcell
      rw [show s.work.bo.toNat + s.work.i.toNat + (j + 1) = s.work.bo.toNat + (s.work.i.toNat + 1) + j by omega]
      exact hcell

/-- A read transaction fills its slice of BUF with the cells from the pointer on (R66). -/
theorem busr_ideal {s : State} {e : Ideal} (h : AtRest s e) (hd : DividerOk s.cfg) (p : Nat)
    (hptr : e.ptr = p % s.cfg.eepromSize) (bo : Word) {tn : Word} (htn : 0 < tn.toNat)
    (hfit : bo.toNat + tn.toNat < 2 ^ 32) :
    ∃ e1 : Ideal, e1.mem = e.mem ∧ AtRest (busr bo tn s) e1 ∧
      ∀ j, j < tn.toNat → (busr bo tn s).bufByte (bo.toNat + j) = cellAt e.mem ((p + j) % s.cfg.eepromSize) := by
  obtain ⟨s1, hs1⟩ : ∃ s1, s1 = busrStart (s.setBusr bo tn) := ⟨_, rfl⟩
  obtain ⟨hcfg, hbo, hi⟩ : s1.cfg = s.cfg ∧ s1.work.bo = bo ∧ s1.work.i.toNat = 0 := by
    simp [hs1, busrStart]
  have hstart : s1.env = .ideal { e with cnt := tn - 1#32, mode := .rx, left := (tn - 1#32).toNat + 1 } := by
    have hread : Config.startRead ≠ Config.startWrite := by decide
    simp [hs1, busrStart, h.env, Env.observe, Ideal.observe, hread]
  have hr : Receiving tn.toNat { e with cnt := tn - 1#32, mode := .rx, left := (tn - 1#32).toNat + 1 } := by
    refine ⟨?_, (if_neg htn.ne').symm⟩
    show (tn - 1#32).toNat + 1 = tn.toNat
    bv_omega
  obtain ⟨e1, hmem, hdone, hcells⟩ :=
    busrLoop_ideal tn.toNat p (hcfg ▸ hd) hstart hr (hcfg ▸ hptr) (by rw [hbo, hi]; exact hfit)
  obtain ⟨hpoll, hend⟩ := hdone.waitIdle (by rw [busrLoop_cfg, hcfg]; exact hd) .busyR
  have hbusr : busr bo tn s = waitIdle .busyR (busrLoop tn.toNat s1) := by rw [hs1]; rfl
  have hbuf : (waitIdle .busyR (busrLoop tn.toNat s1)).buf = (busrLoop tn.toNat s1).buf := by rw [hpoll]; rfl
  rw [hbo, hi, hcfg, Nat.add_zero] at hcells
  refine ⟨e1, hmem, hbusr ▸ hend, fun j hj => ?_⟩
  rw [hbusr, State.bufByte_congr hbuf]
  exact hcells j hj

/-! ### Slices under ENV_IDEAL (R134, R139) -/

/-- `ReadAt` fills its slice of BUF with the cells from its address on. -/
theorem readAt_ideal {s : State} {e : Ideal} (h : AtRest s e) (hv : s.cfg.Valid) {n : Word} (hn : 0 < n.toNat)
    (hfit : s.work.bo.toNat + n.toNat < 2 ^ 32) :
    ∃ e1 : Ideal, e1.mem = e.mem ∧ AtRest (readAt n s) e1 ∧
      ∀ j, j < n.toNat → (readAt n s).bufByte (s.work.bo.toNat + j) =
        cellAt e.mem ((s.work.a.toNat + j) % s.cfg.eepromSize) := by
  obtain ⟨e1, hmem, hptr, hprimed⟩ := send_ideal h hv s.work.a s.work.bo (tn := 0#32) (Nat.zero_le _)
    (s.work.bo.isLt)
  have hcfg := ((pageSelect_kept s.work.a s).trans (busw_kept s.work.a s.work.bo 0#32 _)).cfg
  obtain ⟨e2, hmem2, hdone, hcells⟩ := busr_ideal hprimed (hcfg.symm ▸ dividerOk_of_valid hv) s.work.a.toNat
    (by rw [hcfg]; exact hptr) s.work.bo hn hfit
  refine ⟨e2, hmem2.trans hmem, hdone, fun j hj => ?_⟩
  have hcell := hcells j hj
  rw [hcfg] at hcell
  rw [← hmem]
  exact hcell

/-- `WriteAt` stores its slice of BUF in the cells from its address on. -/
theorem writeAt_ideal {s : State} {e : Ideal} (h : AtRest s e) (hv : s.cfg.Valid) {n : Word}
    (hbuf : n.toNat ≤ s.cfg.bufSize) (hfit : s.work.bo.toNat + n.toNat < 2 ^ 32)
    (hround : n.toNat ≤ s.cfg.eepromSize) :
    ∃ e1 : Ideal, AtRest (writeAt n s) e1 ∧
      Ideal.Written s.cfg.eepromSize s.work.a.toNat
        ((List.range n.toNat).map fun k => s.bufByte (s.work.bo.toNat + k)) e.mem e1.mem := by
  obtain ⟨e1, hmem, hptr, hsent⟩ := send_ideal h hv s.work.a s.work.bo hbuf hfit
  refine ⟨_, hsent.delay Config.tWriteCycle, ?_⟩
  rw [← hmem]
  exact Ideal.store_written _ hptr (by simpa using hround)

/-! ### Transfers under ENV_IDEAL -/

/-- The slices `ps` stand at their BUF offsets from the address `a` on (R133). -/
def OnRange (a : Word) (ps : List Slice) : Prop := ∀ p ∈ ps, p.addr = a + BitVec.ofNat 32 p.offset

theorem slices_onRange (z : Nat) (a : Word) (n : Nat) : OnRange a (slices z a n) := by
  intro p hp
  simp only [slices, List.mem_append, List.mem_map] at hp
  rcases hp with ⟨_, -, rfl⟩ | ⟨_, -, rfl⟩ <;> rfl

theorem byteSlices_onRange (a : Word) (n : Nat) : OnRange a (byteSlices a n) := by
  intro p hp
  simp only [byteSlices, List.mem_map] at hp
  obtain ⟨_, -, rfl⟩ := hp
  rfl

/-- What each slice carries on that stands at its BUF offset from `a` on. -/
theorem onRange_carries {z : Word} {act : Word → State → State} {total : Nat} {a : Word} {P : Nat → State → Prop}
    (hwork : ∀ m s w, P m s → P m (s.withWork w))
    (hslice : ∀ m n s, (n = z ∨ n = 1#32) → s.work.bo.toNat = m → s.work.a = a + BitVec.ofNat 32 m →
      m + n.toNat ≤ total → P m s → P (m + n.toNat) (act n s)) :
    CarriesSlices z act total (fun m ps s => OnRange a ps → P m s) := by
  refine ⟨fun m _ s w _ h hps => hwork m s w (h hps), fun m ps n s hn hbo hfit h hps => ?_⟩
  obtain ⟨hps, hp⟩ := List.forall_mem_append.1 hps
  exact hslice m n s hn hbo (hp _ (List.mem_singleton_self _)) hfit (h hps)

/-- The address of the byte `m + j` of a transfer names the cell `a + m + j` (R133, R138). -/
theorem slice_cell (c : Config) (a : Word) {m : Nat} (hm : m < 2 ^ 32) (j : Nat) :
    ((a + BitVec.ofNat 32 m).toNat + j) % c.eepromSize = (a.toNat + (m + j)) % c.eepromSize := by
  rw [← Nat.mod_add_mod, cell_add, BitVec.toNat_ofNat, Nat.mod_eq_of_lt hm, Nat.mod_add_mod, Nat.add_assoc]

/-- From `s` under ENV_IDEAL in `e`, the first `m` bytes of BUF have been filled with the cells from `a` on. -/
structure ReadCells (s : State) (e : Ideal) (a : Word) (m : Nat) (t : State) : Prop where
  cfg : t.cfg = s.cfg
  rest : ∃ e1 : Ideal, e1.mem = e.mem ∧ AtRest t e1
  cells : ∀ k, k < m → t.bufByte k = cellAt e.mem ((a.toNat + k) % s.cfg.eepromSize)

theorem ReadCells.withWork {s t : State} {e : Ideal} {a : Word} {m : Nat} (h : ReadCells s e a m t) (w : Work) :
    ReadCells s e a m (t.withWork w) := by
  obtain ⟨hcfg, ⟨e1, hmem, hrest⟩, hcells⟩ := h
  exact ⟨hcfg, ⟨e1, hmem, hrest.withWork w⟩, hcells⟩

theorem readCells_carries (z : Word) (hz : 0 < z.toNat) {total : Nat} (htotal : total < 2 ^ 32) {s : State}
    (hv : s.cfg.Valid) (e : Ideal) (a : Word) :
    CarriesSlices z readAt total (fun m ps t => OnRange a ps → ReadCells s e a m t) := by
  refine onRange_carries (fun _ _ w h => h.withWork w) fun m n t hn hbo ha hfit h => ?_
  obtain ⟨hcfg, ⟨e1, hmem, hrest⟩, hcells⟩ := h
  have hpos : 0 < n.toNat := by
    rcases hn with rfl | rfl
    · exact hz
    · decide
  obtain ⟨e2, hmem2, hdone, hslice⟩ := readAt_ideal hrest (hcfg.symm ▸ hv) hpos (by omega)
  obtain ⟨_, _, hfills⟩ := readAt_fills n t (by omega)
  refine ⟨(readAt_kept n t).cfg.trans hcfg, ⟨e2, hmem2.trans hmem, hdone⟩, fun k hk => ?_⟩
  by_cases hlt : k < m
  · rw [hfills.outside k (.inl (by omega)), hcells k hlt]
  · obtain ⟨j, rfl⟩ := Nat.exists_eq_add_of_le (Nat.le_of_not_lt hlt)
    have hcell := hslice j (by omega)
    rwa [hbo, ha, hcfg, slice_cell _ _ (by omega), hmem] at hcell

theorem readCells_start {s : State} {e : Ideal} (h : AtRest s e) (a : Word) : ReadCells s e a 0 s :=
  ⟨rfl, ⟨e, rfl, h⟩, fun _ hk => absurd hk (Nat.not_lt_zero _)⟩

/-- EERD (R134). -/
theorem eerd_readCells {s : State} {e : Ideal} (h : AtRest s e) (hv : s.cfg.Valid) :
    ReadCells s e s.work.addr s.work.len.toNat (eerd s) :=
  eerd_carries (P := fun m ps t => OnRange s.work.addr ps → ReadCells s e s.work.addr m t)
    (readCells_carries Config.rdBlock (by decide) s.work.len.isLt hv e s.work.addr) rfl
    (fun _ => readCells_start h _) (slices_onRange _ _ _)

/-- EERD1 (R137). -/
theorem eerd1_readCells {s : State} {e : Ideal} (h : AtRest s e) (hv : s.cfg.Valid) :
    ReadCells s e s.work.addr s.work.len.toNat (eerd1 s) :=
  eerd1_carries (P := fun m ps t => OnRange s.work.addr ps → ReadCells s e s.work.addr m t)
    (readCells_carries 1#32 (by decide) s.work.len.isLt hv e s.work.addr) rfl
    (fun _ => readCells_start h _) (byteSlices_onRange _ _)

/-- Settles O55: each slice reads the cells from its own address on. -/
theorem idealEnvReadsTheCells : Obligations.IdealEnvReadsTheCells := by
  intro i s e a n hi henv hmode hacc
  have hrest : AtRest (latch i s) e := ⟨henv, hmode⟩
  have hread : ReadCells (latch i s) e a n.toNat (commandBody i (latch i s)) := by
    rcases hi with rfl | rfl
    · exact eerd_readCells hrest hacc.1
    · exact eerd1_readCells hrest hacc.1
  exact ⟨_, exec_accepts hacc, hread.cells⟩

/-- From `s` under ENV_IDEAL, the first `m` bytes of BUF have been stored in the cells from `a` on. -/
structure WroteCells (s : State) (a : Word) (m : Nat) (t : State) : Prop where
  cfg : t.cfg = s.cfg
  buf : t.buf = s.buf
  cells : ∃ e : Ideal, AtRest t e ∧
    ∀ k, k < m → Memory.read e.mem ((a.toNat + k) % s.cfg.eepromSize) = some (s.bufByte k)

theorem WroteCells.withWork {s t : State} {a : Word} {m : Nat} (h : WroteCells s a m t) (w : Work) :
    WroteCells s a m (t.withWork w) := by
  obtain ⟨hcfg, hbuf, e, hrest, hcells⟩ := h
  exact ⟨hcfg, hbuf, e, hrest.withWork w, hcells⟩

theorem wroteCells_carries (z : Word) {total : Nat} {s : State} (hv : s.cfg.Valid)
    (hbuf : total ≤ s.cfg.bufSize) (hround : total ≤ s.cfg.eepromSize) (a : Word) :
    CarriesSlices z writeAt total (fun m ps t => OnRange a ps → WroteCells s a m t) := by
  refine onRange_carries (fun _ _ w h => h.withWork w) fun m n t _ hbo ha hfit h => ?_
  obtain ⟨hcfg, htbuf, e, hrest, hcells⟩ := h
  obtain ⟨e1, hdone, hin, hout⟩ := writeAt_ideal (n := n) hrest (hcfg.symm ▸ hv) (by rw [hcfg]; omega) (by omega)
    (by rw [hcfg]; omega)
  simp only [List.length_map, List.length_range, List.getElem_map, List.getElem_range, hcfg, ha,
    slice_cell s.cfg a (show m < 2 ^ 32 by omega), hbo, State.bufByte_congr htbuf] at hin hout
  refine ⟨(writeAt_kept n t).cfg.trans hcfg, (writeAt_buf n t).trans htbuf, e1, hdone, fun k hk => ?_⟩
  by_cases hlt : k < m
  · rw [hout _ fun j hj => Ideal.cell_ne (by omega) (by omega), hcells k hlt]
  · obtain ⟨j, rfl⟩ := Nat.exists_eq_add_of_le (Nat.le_of_not_lt hlt)
    exact hin j (by omega)

/-- EEWR (R139). -/
theorem eewr_wroteCells {s : State} {e : Ideal} (h : AtRest s e) (hv : s.cfg.Valid)
    (hbuf : s.work.len.toNat ≤ s.cfg.bufSize) (hround : s.work.len.toNat ≤ s.cfg.eepromSize) :
    WroteCells s s.work.addr s.work.len.toNat (eewr s) :=
  eewr_carries (P := fun m ps t => OnRange s.work.addr ps → WroteCells s s.work.addr m t)
    (wroteCells_carries Config.wrBlock hv hbuf hround s.work.addr) rfl
    (fun _ => ⟨rfl, rfl, e, h, fun _ hk => absurd hk (Nat.not_lt_zero _)⟩) (slices_onRange _ _ _)

/-- Settles O56: EEWR leaves the bytes in the cells, which EERD reads. -/
theorem idealEnvRoundTrip : Obligations.IdealEnvRoundTrip := by
  intro s e a n other henv hmode hacc hround
  obtain ⟨hv, -, hwf⟩ := id hacc
  have hrest : AtRest (latch (.eewr a n) s) e := ⟨henv, hmode⟩
  obtain ⟨hcfg, -, e1, ⟨henv1, hmode1⟩, hcells⟩ := eewr_wroteCells hrest hv (length_fits hv (.inl hwf)) hround
  obtain ⟨t, ht⟩ : ∃ t, t = (eewr (latch (.eewr a n) s)).withRun .idle := ⟨_, rfl⟩
  have hc : (t.withBuf other).cfg = s.cfg := by rw [ht]; exact hcfg
  have hacc1 : Accepts (.eerd a n) (t.withBuf other) :=
    ⟨by rw [hc]; exact hv, by rw [ht]; rfl, by rw [hc]; exact hwf⟩
  obtain ⟨u, hu, hread⟩ := idealEnvReadsTheCells (.eerd a n) (t.withBuf other) e1 a n (.inl rfl)
    (by rw [ht]; exact henv1) hmode1 hacc1
  refine ⟨t, u, ht ▸ exec_accepts hacc, hu, fun k hk => ?_⟩
  have hcell : Memory.read e1.mem ((a.toNat + k) % s.cfg.eepromSize) = some (s.bufByte k) := hcells k hk
  rw [hread k hk, hc, hcell]
  rfl

end Sys2Proof.Machine
end

section
/-! PROOFS. The encoding statements (30_encoding.md): decoder and encoder are inverse (R73, R74, R76), and acceptance
refuses by name what R70, R76, R77 and R78 refuse and nothing else. -/

namespace Sys2Proof.Machine

/-! ### The fields of `CW0` (R73) -/

theorem opcodeField_toNat (w : Word) : (opcodeField w).toNat = w.toNat % 256 := by
  simp [opcodeField]

theorem zeroField_eq_zero_iff (w : Word) : zeroField w = 0#24 ↔ w.toNat < 256 := by
  have hw := w.isLt
  rw [zeroField, ← BitVec.toNat_inj, BitVec.extractLsb'_toNat, Nat.shiftRight_eq_div_pow, BitVec.toNat_ofNat]
  omega

/-- `ZERO` and `OPC` are all of `CW0`. -/
theorem eq_setWidth_opcodeField {w : Word} (h : zeroField w = 0#24) : w = (opcodeField w).setWidth 32 := by
  rw [zeroField_eq_zero_iff] at h
  apply BitVec.eq_of_toNat_eq
  rw [BitVec.toNat_setWidth, opcodeField_toNat]
  omega

/-! ### The opcode map (R74) -/

theorem encodeShape (i : Instr) : Laws.EncodeShape.Statement i := by
  cases i with
  | init a n => exact Laws.EncodeShape.init a n
  | read a n => exact Laws.EncodeShape.read a n
  | write a n => exact Laws.EncodeShape.write a n
  | dump a n => exact Laws.EncodeShape.dump a n
  | busw a n => exact Laws.EncodeShape.busw a n
  | busr a n => exact Laws.EncodeShape.busr a n
  | eerd a n => exact Laws.EncodeShape.eerd a n
  | eerd1 a n => exact Laws.EncodeShape.eerd1 a n
  | eewr a n => exact Laws.EncodeShape.eewr a n

/-- The opcode map names a command only by its own opcode, and hands it the operand words as they stand. -/
theorem fields_of_commandOf {opc : BitVec 8} {cw1 cw2 : Word} {i : Instr} (h : commandOf opc cw1 cw2 = some i) :
    opc = i.opcode ∧ cw1 = i.address ∧ cw2 = i.length := by
  unfold commandOf at h
  split_ifs at h with hopc hopc hopc hopc hopc hopc hopc hopc hopc <;> cases h <;> exact ⟨hopc, rfl, rfl⟩

/-- The opcodes that are not reserved. -/
theorem opcode_toNat_assigned (i : Instr) :
    i.opcode.toNat ≤ 3 ∨ (0x10 ≤ i.opcode.toNat ∧ i.opcode.toNat ≤ 0x11) ∨
      (0x20 ≤ i.opcode.toNat ∧ i.opcode.toNat ≤ 0x22) := by
  cases i <;> simp only [Instr.opcode] <;> decide

/-! ### Decoder and encoder (R73, R76) -/

theorem decode_eq_ok_iff (cw0 cw1 cw2 : Word) (i : Instr) :
    decode [cw0, cw1, cw2] = .ok i ↔ zeroField cw0 = 0#24 ∧ commandOf (opcodeField cw0) cw1 cw2 = some i := by
  unfold decode
  by_cases hz : zeroField cw0 = 0#24
  · cases h : commandOf (opcodeField cw0) cw1 cw2 <;> simp [hz, h]
  · simp [hz]

theorem decode_encode (i : Instr) : decode (encode i) = .ok i := by
  obtain ⟨cw0, hencode, hzero, hopc, hcommand⟩ := encodeShape i
  rw [hencode, decode_eq_ok_iff, hopc]
  exact ⟨hzero, hcommand⟩

theorem eq_encode_of_decode {ws : List Word} {i : Instr} (h : decode ws = .ok i) : ws = encode i := by
  match ws with
  | [cw0, cw1, cw2] =>
    obtain ⟨hzero, hcommand⟩ := (decode_eq_ok_iff cw0 cw1 cw2 i).1 h
    obtain ⟨hopc, rfl, rfl⟩ := fields_of_commandOf hcommand
    rw [encode, ← hopc, ← eq_setWidth_opcodeField hzero]
  | [] | [_] | [_, _] | _ :: _ :: _ :: _ :: _ => cases h

/-- Settles O2: `ZERO` and `OPC` make up `CW0`, and the opcode map is injective. -/
theorem decodeInvertsEncode : Obligations.DecodeInvertsEncode := by
  intro ws i
  exact ⟨eq_encode_of_decode, fun h => h ▸ decode_encode i⟩

/-- Settles O1: each list is the command's encoding. -/
theorem commandWordsDecodeToTheirCommands : Obligations.CommandWordsDecodeToTheirCommands := fun a n =>
  ⟨decode_encode (.init a n), decode_encode (.read a n), decode_encode (.write a n), decode_encode (.dump a n),
    decode_encode (.busw a n), decode_encode (.busr a n), decode_encode (.eerd a n), decode_encode (.eerd1 a n),
    decode_encode (.eewr a n)⟩

/-! ### A presented command word (R70, R76) -/

theorem step_present {s : State} {c : CommandWord} {rest : List HostMove} (hv : s.cfg.Valid) (hr : s.run = .idle)
    (hh : s.host = .present c :: rest) : step s = presentCommand c (s.withHost rest) := by
  rw [step_idle hv hr, idleStep, hh]

theorem presentCommand_ok {c : CommandWord} {i : Instr} (h : decode c.words = .ok i) (s : State) :
    presentCommand c s = exec i s := by
  rw [presentCommand, h]

theorem presentCommand_error {c : CommandWord} {p : DecodeProblem} (h : decode c.words = .error p) (s : State) :
    presentCommand c s = .refused (.undecodable p) := by
  rw [presentCommand, h]

theorem decode_zeroField {cw0 : Word} (h : 256 ≤ cw0.toNat) (cw1 cw2 : Word) :
    decode [cw0, cw1, cw2] = .error .zeroField :=
  if_pos fun hz => absurd ((zeroField_eq_zero_iff cw0).1 hz) (by omega)

theorem commandOf_eq_none {opc : BitVec 8} (h : ∀ i : Instr, opc ≠ i.opcode) (cw1 cw2 : Word) :
    commandOf opc cw1 cw2 = none :=
  Option.eq_none_iff_forall_ne_some.2 fun i hi => h i (fields_of_commandOf hi).1

theorem decode_reservedOpcode {cw0 : Word} (hz : cw0.toNat < 256) (h : ∀ i : Instr, opcodeField cw0 ≠ i.opcode)
    (cw1 cw2 : Word) : decode [cw0, cw1, cw2] = .error .reservedOpcode := by
  simp [decode, (zeroField_eq_zero_iff cw0).2 hz, commandOf_eq_none h]

/-- Settles O3: a `CW0` of 256 or more has a non-zero `ZERO`, and the reserved ranges hold no command's opcode. -/
theorem reservedCommandWordsAreRefused : Obligations.ReservedCommandWordsAreRefused := by
  intro s c rest hv hr hh
  rw [step_present hv hr hh]
  refine ⟨fun hbig => presentCommand_error (decode_zeroField hbig _ _) _, fun hres => ?_⟩
  have hsmall : c.cw0.toNat < 256 := by omega
  have hnone : ∀ i : Instr, opcodeField c.cw0 ≠ i.opcode := by
    intro i hi
    have hopc := congrArg BitVec.toNat hi
    rw [opcodeField_toNat, Nat.mod_eq_of_lt hsmall] at hopc
    have hassigned := opcode_toNat_assigned i
    omega
  exact presentCommand_error (decode_reservedOpcode hsmall hnone _ _) _

/-- Settles O4: HOST's move is the presented command, and the words decode. -/
theorem stepRunsThePresentedCommand : Obligations.StepRunsThePresentedCommand := by
  intro s c rest i hv hr hh hd
  rw [step_present hv hr hh, presentCommand_ok hd]

/-! ### Acceptance of the operands (R77, R78) -/

theorem legalWriteSize_iff (n : Word) : Instr.legalWriteSize n = true ↔ n = 1#32 ∨ n = 2#32 ∨ n = 4#32 := by
  simp [Instr.legalWriteSize, or_assoc]

theorem fitsBuf_iff (c : Config) (n : Word) : Instr.fitsBuf c n = true ↔ n.toNat ≤ c.bufSize := decide_eq_true_iff

/-- Acceptance refuses for the reason of the operand check. -/
theorem exec_operandRefusal {i : Instr} {s : State} {r : Refusal} (hv : s.cfg.Valid) (hr : s.run = .idle)
    (h : operandRefusal s.cfg i = some r) : exec i s = .refused r := by
  simp only [exec_eq, runCommand, acceptRefusal, if_pos hv, hr, h]

/-- Settles O6: the operand check of WRITE is its size, that of EEWR is BUF's. -/
theorem writeSizeIsChecked : Obligations.WriteSizeIsChecked := by
  intro s a n hv hr
  refine ⟨fun ⟨h1, h2, h4⟩ => ?_, fun h => ?_, fun h => ?_⟩
  · have hbad : ¬Instr.legalWriteSize n = true := by simp [legalWriteSize_iff, h1, h2, h4]
    exact exec_operandRefusal hv hr (if_neg hbad)
  · exact ⟨_, exec_accepts ⟨hv, hr, (legalWriteSize_iff n).2 h⟩⟩
  · exact ⟨_, exec_accepts ⟨hv, hr, (fitsBuf_iff s.cfg n).2 h⟩⟩

/-- Settles O7: the operand check of the six commands is BUF's size, BUSR's after that for 0. -/
theorem lengthIsChecked : Obligations.LengthIsChecked := by
  intro s a n hv hr
  have haccept : ∀ i : Instr, i.wellFormed s.cfg = true → ∃ t, exec i s = .next t := fun i hi =>
    ⟨_, exec_accepts ⟨hv, hr, hi⟩⟩
  have hzero : Instr.fitsBuf s.cfg 0#32 = true := (fitsBuf_iff s.cfg 0#32).2 (Nat.zero_le _)
  refine ⟨fun hlong => ?_, exec_operandRefusal hv hr rfl, haccept (.read a 0#32) hzero,
    haccept (.eerd a 0#32) hzero, haccept (.eerd1 a 0#32) hzero, haccept (.eewr a 0#32) hzero,
    haccept (.busw a 0#32) hzero⟩
  have hbad : ¬Instr.fitsBuf s.cfg n = true := by
    rw [fitsBuf_iff]
    omega
  have hpos : n ≠ 0#32 := by
    rintro rfl
    exact hbad hzero
  exact ⟨exec_operandRefusal hv hr (if_neg hbad), exec_operandRefusal hv hr (if_neg hbad),
    exec_operandRefusal hv hr ((if_neg hpos).trans (if_neg hbad)), exec_operandRefusal hv hr (if_neg hbad),
    exec_operandRefusal hv hr (if_neg hbad), exec_operandRefusal hv hr (if_neg hbad)⟩

/-! ### A BUSY SEQ (R70, R116, R195) -/

theorem exec_busy {s : State} {u : Upc} {last : Option Upc} (hv : s.cfg.Valid) (hr : s.run = .busy u last)
    (i : Instr) : exec i s = .refused .commandWhileBusy := by
  simp only [exec_eq, runCommand, acceptRefusal, if_pos hv, hr]

theorem pending_host (last : Option Upc) (s : State) : (pending last s).2.host = s.host := by
  rw [(pending_onward last s).eq]
  rfl

theorem event_host (u : Upc) (s : State) : (event u s).host = s.host := by
  obtain ⟨_, _, _, _, _, -, h⟩ := event_spec u s
  rw [h]

theorem proceed_host (last : Option Upc) (s : State) : (proceed last s).host = s.host := by
  cases h : (pending last s).1 with
  | none => rw [proceed_idle h, State.withRun_host, pending_host]
  | some u => rw [(proceed_busy h).1, State.withRun_host]

theorem microStep_host (u : Upc) (last : Option Upc) (s : State) : (microStep u last s).host = s.host := by
  rw [microStep, proceed_host, event_host, pending_host]

/-- Settles O9: acceptance looks at `RUN` before the operands, and a micro-step is total and has no move of HOST. -/
theorem busySeqTakesNoCommandAndGoesOn : Obligations.BusySeqTakesNoCommandAndGoesOn := by
  intro s u last hv hr
  exact ⟨exec_busy hv hr, microStep u last s, step_busy hv hr, microStep_host u last s⟩

end Sys2Proof.Machine
end

section
/-! PROOFS. The bounded polls (R102, R103): the samples one by one, in `J` and from ENV. -/

namespace Sys2Proof.Machine

/-- A poll of at most `n + 1` samples from `s` takes the samples `vs`, then `v`, and leaves ENV at `e`: no sample
before `v` meets the test, and `v` meets it or is the last one allowed; an oracle's answers are the samples. -/
structure PollRun (test : Word → Bool) (n : Nat) (s : State) (vs : List Word) (v : Word) (e : Env) : Prop where
  length : vs.length ≤ n
  before : ∀ w ∈ vs, test w = false
  bound : test v = false → vs.length = n
  oracle : ∀ ans d, s.env = .oracle ans d → vs.length + 1 ≤ ans.length →
    vs ++ [v] = ans.take (vs.length + 1) ∧ e = .oracle (ans.drop (vs.length + 1)) d

/-- One STATUS read, as its `PollRun` with no sample before it. -/
theorem pollRun_one {test : Word → Bool} {n : Nat} {s : State}
    (h : test (s.env.answer s.cfg .status).1 = false → n = 0) :
    PollRun test n s [] (s.env.answer s.cfg .status).1 (s.env.answer s.cfg .status).2 := by
  refine ⟨Nat.zero_le n, fun _ hw => absurd hw List.not_mem_nil, fun hv => (h hv).symm, fun ans d henv hlen => ?_⟩
  obtain ⟨w, ws, rfl⟩ := List.exists_cons_of_length_pos hlen
  rw [henv]
  exact ⟨rfl, rfl⟩

/-- A sample that does not meet the test, before a shorter poll. -/
theorem PollRun.cons {test : Word → Bool} {n : Nat} {s : State} {vs : List Word} {v : Word} {e : Env}
    (hw : test (s.env.answer s.cfg .status).1 = false) {j : Word}
    (h : PollRun test n ((busRead .status s).setJ j) vs v e) :
    PollRun test (n + 1) s ((s.env.answer s.cfg .status).1 :: vs) v e := by
  refine ⟨Nat.succ_le_succ h.length, List.forall_mem_cons.2 ⟨hw, h.before⟩,
    fun hv => congrArg Nat.succ (h.bound hv), fun ans d henv hlen => ?_⟩
  obtain ⟨w, ws, rfl⟩ := List.exists_cons_of_length_pos (Nat.lt_of_lt_of_le (Nat.succ_pos _) hlen)
  have hanswer : s.env.answer s.cfg .status = (w, .oracle ws d) := by rw [henv]; rfl
  obtain ⟨htake, hdrop⟩ := h.oracle ws d (congrArg Prod.snd hanswer) (Nat.le_of_succ_le_succ hlen)
  rw [hanswer]
  exact ⟨congrArg (w :: ·) htake, hdrop⟩

theorem busRead_status (s : State) :
    busRead .status s =
      sampled s [(s.env.answer s.cfg .status).1] s.work.j (s.env.answer s.cfg .status).1
        (s.env.answer s.cfg .status).2 := rfl

theorem sampled_sampled (s : State) (vs ws : List Word) (j v j' v' : Word) (e e' : Env) :
    sampled (sampled s vs j v e) ws j' v' e' = sampled s (vs ++ ws) j' v' e' := by
  simp [sampled]

theorem pollLoop_hit {test : Word → Bool} {s : State} (h : test (s.env.answer s.cfg .status).1 = true) (n : Nat) :
    pollLoop test (n + 1) s = (true, busRead .status s) := if_pos h

theorem pollLoop_again {test : Word → Bool} {s : State} (h : test (s.env.answer s.cfg .status).1 = false) (n : Nat) :
    pollLoop test (n + 1) s = pollLoop test n ((busRead .status s).setJ (s.work.j + 1#32)) :=
  if_neg (Bool.eq_false_iff.1 h)

/-- The state a poll leaves: `J` counts the samples that do not meet the test, `V` is the last sample. -/
theorem pollLoop_run (test : Word → Bool) (n : Nat) (s : State) :
    ∃ vs v e, PollRun test n s vs v e ∧ pollLoop test (n + 1) s =
      (test v, sampled s (vs ++ [v]) (s.work.j + BitVec.ofNat 32 (vs.length + if test v then 0 else 1)) v e) := by
  induction n generalizing s with
  | zero =>
    refine ⟨[], _, _, pollRun_one fun _ => rfl, ?_⟩
    cases h : test (s.env.answer s.cfg .status).1 with
    | true => simp [pollLoop_hit h, busRead_status]
    | false =>
      rw [pollLoop_again h]
      rfl
  | succ n ih =>
    cases h : test (s.env.answer s.cfg .status).1 with
    | true =>
      refine ⟨[], _, _, pollRun_one fun hf => (nomatch h.symm.trans hf), ?_⟩
      simp [pollLoop_hit h, h, busRead_status]
    | false =>
      obtain ⟨vs, v, e, hrun, heq⟩ := ih ((busRead .status s).setJ (s.work.j + 1#32))
      refine ⟨_ :: vs, v, e, hrun.cons h, ?_⟩
      have hj : s.work.j + 1#32 + BitVec.ofNat 32 (vs.length + if test v then 0 else 1) =
          s.work.j + BitVec.ofNat 32 (vs.length + 1 + if test v then 0 else 1) := by
        rw [Nat.add_right_comm vs.length, Nat.add_comm _ 1, BitVec.ofNat_add 1, BitVec.add_assoc]
      have hfirst : (busRead .status s).setJ (s.work.j + 1#32) =
          sampled s [(s.env.answer s.cfg .status).1] (s.work.j + 1#32) (s.env.answer s.cfg .status).1
            (s.env.answer s.cfg .status).2 := rfl
      rw [pollLoop_again h, heq, setJ_work, hj, hfirst, sampled_sampled]
      rfl

/-- A poll counts its samples in `J` from 0 (R102, R103). -/
theorem poll_run (test : Word → Bool) {bound : Nat} (hb : 1 ≤ bound) (s : State) :
    ∃ vs v e, PollRun test (bound - 1) s vs v e ∧ poll test bound s =
      (test v, sampled s (vs ++ [v]) (BitVec.ofNat 32 (vs.length + if test v then 0 else 1)) v e) := by
  obtain ⟨n, rfl⟩ := Nat.exists_eq_add_of_le' hb
  obtain ⟨vs, v, e, hrun, heq⟩ := pollLoop_run test n (s.setJ 0#32)
  refine ⟨vs, v, e, ⟨hrun.length, hrun.before, hrun.bound, hrun.oracle⟩, ?_⟩
  rw [poll, heq, setJ_work, BitVec.zero_add]
  rfl

/-- Settles O19: the poll's test is the bit. -/
theorem pollSetSamplesUntilTheBitOrTheBound : Obligations.PollSetSamplesUntilTheBitOrTheBound := by
  intro s test bit hbound hbit
  have htest : test = fun w : Word => w.getLsbD bit := by
    rcases hbit with ⟨rfl, rfl⟩ | ⟨rfl, rfl⟩ <;> rfl
  obtain ⟨vs, v, e, hrun, heq⟩ := poll_run test hbound s
  subst htest
  have hlen := hrun.length
  refine ⟨vs, v, e, by omega, hrun.before, congrArg Prod.fst heq, fun hv => ?_, hrun.oracle, congrArg Prod.snd heq⟩
  have hmax := hrun.bound hv
  omega

/-- Settles O20: the poll's test is BUSY clear, and a timeout adds the ghost mark. -/
theorem waitIdleSamplesUntilIdleOrTheBound : Obligations.WaitIdleSamplesUntilIdleOrTheBound := by
  intro s mark hbound
  obtain ⟨vs, v, e, hrun, heq⟩ := poll_run statusIdle hbound s
  have hlen := hrun.length
  refine ⟨vs, v, e, by omega, fun w hw => ?_, fun hv => ?_, hrun.oracle, ?_⟩
  · simpa [statusIdle] using hrun.before w hw
  · have hmax := hrun.bound (by simp [statusIdle, hv])
    omega
  · have hidle : statusIdle v = !v.getLsbD 0 := rfl
    simp only [waitIdle, heq, hidle]
    cases v.getLsbD 0 with
    | false => simp [sampled]
    | true => rfl

end Sys2Proof.Machine
end

section
/-! PROOFS. BUS_INIT as a command, and the frames of BUSW and BUSR (R105, R106, R110, R111). -/

namespace Sys2Proof.Machine

/-- Settles O11, by `busInit_spec`; the divider is that of the board. -/
theorem initPulsesResetAndWritesDefaults : Obligations.InitPulsesResetAndWritesDefaults := by
  intro s a n h
  obtain ⟨e, hinit⟩ := busInit_spec (latch (.init a n) s)
  refine ⟨_, _, s.cfg.clkdivWord, exec_accepts h, rfl, fun hb => ?_, fun hb => ?_, ?_⟩
  · rw [Config.clkdivWord, clkdiv_of_prod hb]
  · rw [Config.clkdivWord, clkdiv_of_sim hb]
  · simp only [commandBody, hinit]
    exact ⟨rfl, rfl, rfl, rfl, rfl, rfl, rfl, rfl, rfl⟩

/-- The byte count of a write transaction, as BYTECNT and `I` hold it (R108). -/
theorem total_eq {c : Config} (hv : c.Valid) {tn : Word} (h : tn.toNat ≤ c.bufSize) :
    tn + c.addrWord - 1#32 = BitVec.ofNat 32 (tn.toNat + c.addrBytes - 1) := by
  rw [← total_toNat hv h, BitVec.ofNat_toNat, BitVec.setWidth_eq]

/-- Settles O22, by `busw_spec`. -/
theorem buswFrame : Obligations.BuswFrame := by
  intro s a n h
  obtain ⟨hv, -, hwf⟩ := id h
  have htotal := total_eq hv ((fitsBuf_iff s.cfg n).1 hwf)
  obtain ⟨j, v, e, d, evs, ts, hbusw⟩ := busw_spec a 0#32 n (latch (.busw a n) s)
  refine ⟨_, exec_accepts h, ?_⟩
  have hbody : commandBody (.busw a n) (latch (.busw a n) s) = _ := hbusw
  rw [hbody, ← htotal]
  exact ⟨rfl, rfl, rfl, rfl, rfl, rfl, rfl, rfl, rfl⟩

/-- Settles O24, by `busr_spec`. -/
theorem busrFrame : Obligations.BusrFrame := by
  intro s a n h
  obtain ⟨j, v, e, m, evs, ts, hbusr⟩ := busr_spec 0#32 n (latch (.busr a n) s)
  refine ⟨_, exec_accepts h, ?_⟩
  have hbody : commandBody (.busr a n) (latch (.busr a n) s) = _ := hbusr
  rw [hbody]
  exact ⟨rfl, rfl, rfl, rfl, rfl, rfl⟩

end Sys2Proof.Machine
end

section
/-! PROOFS. The order of events (R140, R143, R205 to R211): every operation leads the TRACE from one phase to another. -/

namespace Sys2Proof.Machine

/-! ### Phases along a TRACE -/

theorem Phase.run_cons {c : Config} {p q : Phase} {e : Event} (h : Phase.next c p e = some q) (es : List Event) :
    Phase.run c p (e :: es) = Phase.run c q es := by
  simp only [Phase.run, h]

theorem Phase.run_append {c : Config} {p q : Phase} {es : List Event} (h : Phase.run c p es = some q)
    (fs : List Event) : Phase.run c p (es ++ fs) = Phase.run c q fs := by
  induction es generalizing p with
  | nil =>
    cases h
    rfl
  | cons e es ih =>
    cases hn : Phase.next c p e with
    | none =>
      rw [Phase.run, hn] at h
      cases h
    | some r =>
      rw [Phase.run_cons hn] at h
      rw [List.cons_append, Phase.run_cons hn, ih h]

/-! ### The polls of a running transaction (R102, R103, R207, R208) -/

/-- What the current poll waits for: the ready bit of the next byte position, or BUSY clear where none is left. -/
def pollTest (t : Transfer) (left : Nat) : Word → Bool := if left = 0 then statusIdle else Phase.readyTest t

/-- How many samples the current poll may take. -/
def pollBound (c : Config) (left : Nat) : Nat := if left = 0 then c.busyLoop else c.maxBusyLoop

/-- A sample that does not meet the test and is not the last one allowed is followed by another. -/
theorem phase_sampled_again {c : Config} {t : Transfer} {left k : Nat} {w : Word} (hw : pollTest t left w = false)
    (hk : k + 1 < pollBound c left) : Phase.sampled c t left k w = .moving t left (k + 1) := by
  unfold pollTest at hw
  unfold pollBound at hk
  unfold Phase.sampled
  by_cases h0 : left = 0
  · subst h0
    rw [if_pos rfl] at hw hk
    rw [if_pos rfl, if_neg (by simp [hw, hk.ne])]
  · rw [if_neg h0] at hw hk
    rw [if_neg h0, if_neg (by simp [hw]), if_neg hk.ne]

theorem run_samples {c : Config} {t : Transfer} {left k : Nat} {vs : List Word}
    (hvs : ∀ w ∈ vs, pollTest t left w = false) (hlen : k + vs.length < pollBound c left) :
    Phase.run c (.moving t left k) (vs.map (Event.read .status)) = some (.moving t left (k + vs.length)) := by
  induction vs generalizing k with
  | nil => rfl
  | cons w vs ih =>
    obtain ⟨hw, hvs⟩ := List.forall_mem_cons.1 hvs
    rw [List.length_cons] at hlen ⊢
    have hnext : Phase.next c (.moving t left k) (.read .status w) = some (.moving t left (k + 1)) :=
      congrArg some (phase_sampled_again hw (by omega))
    rw [List.map_cons, Phase.run_cons hnext, ih hvs (by omega)]
    congr 2
    omega

/-- A poll of the samples `vs`, then `v`, leads to where its last sample leads. -/
theorem run_poll {c : Config} {t : Transfer} {left : Nat} {vs : List Word} (hvs : ∀ w ∈ vs, pollTest t left w = false)
    (hlen : vs.length < pollBound c left) (v : Word) :
    Phase.run c (.moving t left 0) ((vs ++ [v]).map (Event.read .status)) =
      some (Phase.sampled c t left vs.length v) := by
  have hbefore := run_samples (c := c) (k := 0) hvs (by omega)
  rw [Nat.zero_add] at hbefore
  rw [List.map_append, Phase.run_append hbefore]
  rfl

/-- The completion poll ends with BUSY clear or at its bound. -/
theorem phase_sampled_end {c : Config} (t : Transfer) {k : Nat} {v : Word}
    (h : statusIdle v = true ∨ k + 1 = c.busyLoop) : Phase.sampled c t 0 k v = Phase.completed t := by
  rw [Phase.sampled, if_pos rfl, if_pos h]

theorem phase_sampled_ready (c : Config) {t : Transfer} (left k : Nat) {v : Word} (h : Phase.readyTest t v = true) :
    Phase.sampled c t (left + 1) k v = .ready t (left + 1) := by
  rw [Phase.sampled, if_neg left.succ_ne_zero, if_pos h]

theorem phase_sampled_missed {c : Config} {t : Transfer} (left : Nat) {k : Nat} {v : Word}
    (h : Phase.readyTest t v = false) (hk : k + 1 = c.maxBusyLoop) :
    Phase.sampled c t (left + 1) k v = .moving t left 0 := by
  rw [Phase.sampled, if_neg left.succ_ne_zero, if_neg (by simp [h]), if_pos hk, Nat.add_sub_cancel]

/-- A byte poll that succeeds makes the byte of its position due. -/
theorem run_hit {c : Config} {t : Transfer} {left : Nat} {vs : List Word} {v : Word}
    (h : Hit (Phase.readyTest t) vs v) (hlen : vs.length ≤ c.maxBusyLoop) :
    Phase.run c (.moving t (left + 1) 0) (vs.map (Event.read .status)) = some (.ready t (left + 1)) := by
  obtain ⟨vs, rfl, hv, hvs⟩ := h
  rw [List.length_append, List.length_singleton] at hlen
  rw [run_poll (left := left + 1) hvs hlen, phase_sampled_ready c left _ hv]

/-- A byte poll that times out leaves the position behind. -/
theorem run_miss {c : Config} {t : Transfer} {left : Nat} {vs : List Word} (hpos : 0 < c.maxBusyLoop)
    (h : Miss (Phase.readyTest t) c.maxBusyLoop vs) :
    Phase.run c (.moving t (left + 1) 0) (vs.map (Event.read .status)) = some (.moving t left 0) := by
  obtain ⟨hlen, hvs⟩ := h
  obtain rfl | ⟨ws, v, rfl⟩ := List.eq_nil_or_concat' vs
  · exact absurd hlen hpos.ne
  · obtain ⟨hws, hv⟩ := List.forall_mem_append.1 hvs
    have hv : Phase.readyTest t v = false := hv v (List.mem_singleton_self v)
    rw [List.length_append, List.length_singleton] at hlen
    rw [run_poll (left := left + 1) hws (show ws.length < c.maxBusyLoop by omega), phase_sampled_missed left hv hlen]

/-! ### From phase to phase -/

/-- The events from `s` to `t` are in order: they lead from the phase `p` to the phase `q`. -/
def Leads (p : Phase) (s : State) (q : Phase) (t : State) : Prop :=
  t.cfg = s.cfg ∧ ∃ evs, t.trace = s.trace ++ evs ∧ Phase.run s.cfg p evs = some q

theorem Leads.refl (p : Phase) (s : State) : Leads p s p s := ⟨rfl, [], (List.append_nil _).symm, rfl⟩

theorem Leads.trans {p q r : Phase} {s t u : State} (h : Leads p s q t) (g : Leads q t r u) : Leads p s r u := by
  obtain ⟨hc, es, ht, hes⟩ := h
  obtain ⟨hc', fs, hu, hfs⟩ := g
  refine ⟨hc'.trans hc, es ++ fs, by rw [hu, ht, List.append_assoc], ?_⟩
  rw [Phase.run_append hes, ← hc, hfs]

theorem Leads.withWork {p q : Phase} {s t : State} (h : Leads p s q t) (w : Work) : Leads p s q (t.withWork w) := h

theorem leads_busWrite {p q : Phase} {s : State} {r : OutReg} {v : Word}
    (h : Phase.next s.cfg p (.write r v) = some q) : Leads p s q (busWrite r v s) :=
  ⟨rfl, _, busWrite_trace s r v, Phase.run_cons h []⟩

theorem leads_delay {p q : Phase} {s : State} {n : Nat} (h : Phase.next s.cfg p (.delay n) = some q) :
    Leads p s q (delay n s) :=
  ⟨rfl, _, delay_trace s n, Phase.run_cons h []⟩

/-- The completion poll ends the transaction, by BUSY clear or by its bound (R208). -/
theorem waitIdle_leads {s : State} (hd : DividerOk s.cfg) (t : Transfer) (m : Timeout) :
    Leads (.moving t 0 0) s (Phase.completed t) (waitIdle m s) := by
  obtain ⟨vs, v, e, hlen, hvs, hv, -, h⟩ := waitIdleSamplesUntilIdleOrTheBound s m hd.busyLoop.1
  have hbefore : ∀ w ∈ vs, pollTest t 0 w = false := fun w hw => congrArg Bool.not (hvs w hw)
  have hend : Phase.sampled s.cfg t 0 vs.length v = Phase.completed t := by
    refine phase_sampled_end t ?_
    cases hb : v.getLsbD 0 with
    | false => exact .inl (congrArg Bool.not hb)
    | true => exact .inr (hv hb)
  rw [h]
  exact ⟨rfl, _, rfl, (run_poll hbefore hlen v).trans (congrArg some hend)⟩

/-! ### BUSW (R205, R206, R207) -/

/-- A write transaction, which waits for the transmit bit. -/
theorem readyTest_of_ne_read {t : Transfer} (h : t ≠ .read) : Phase.readyTest t = statusTxEmpty := by
  cases t with
  | read => exact absurd rfl h
  | _ => rfl

/-- A DATAOUT write that is due handles its position. -/
theorem next_dataout (c : Config) {t : Transfer} (h : t ≠ .read) (left : Nat) (v : Word) :
    Phase.next c (.ready t (left + 1)) (.write .dataout v) = some (.moving t left 0) := by
  cases t with
  | read => exact absurd rfl h
  | _ => rfl

theorem buswPosition_leads {s : State} (hd : DividerOk s.cfg) {t : Transfer} (ht : t ≠ .read) (left : Nat) :
    Leads (.moving t (left + 1) 0) s (.moving t left 0) (buswPosition s) := by
  obtain ⟨vs, j, v, e, d, evs, ts, h, hlen, hcase⟩ := buswPosition_spec s
  rw [← readyTest_of_ne_read ht] at hcase
  rw [h]
  refine ⟨rfl, evs, rfl, ?_⟩
  rcases hcase with ⟨-, hhit, -, rfl⟩ | ⟨-, hmiss, -, rfl⟩
  · rw [Phase.run_append (run_hit hhit hlen), Phase.run_cons (next_dataout _ ht left _)]
    rfl
  · exact run_miss hd.maxBusyLoop.1 hmiss

theorem buswLoop_leads {s : State} (hd : DividerOk s.cfg) {t : Transfer} (ht : t ≠ .read) (n : Nat) :
    Leads (.moving t n 0) s (.moving t 0 0) (buswLoop n s) := by
  induction n generalizing s with
  | zero => exact .refl _ s
  | succ n ih =>
    have hfirst := buswPosition_leads hd ht n
    exact hfirst.trans (ih (hfirst.1.symm ▸ hd))

/-- What a write transaction that announces `n` more bytes carries. -/
def writeTransfer (c : Config) (n : Nat) : Transfer := if n + 1 = c.addrBytes then .dummy else .payload

theorem writeTransfer_ne_read (c : Config) (n : Nat) : writeTransfer c n ≠ .read := by
  unfold writeTransfer
  split <;> decide

/-- Without payload it is a dummy write. -/
theorem writeTransfer_dummy {c : Config} (hv : c.Valid) : writeTransfer c (0#32 + c.addrWord - 1#32).toNat = .dummy := by
  have ha := hv.1
  rw [total_toNat hv (Nat.zero_le _)]
  refine if_pos ?_
  rw [BitVec.toNat_ofNat]
  omega

theorem writeTransfer_payload {c : Config} (hv : c.Valid) {tn : Word} (hpos : 0 < tn.toNat)
    (hfit : tn.toNat ≤ c.bufSize) : writeTransfer c (tn + c.addrWord - 1#32).toNat = .payload := by
  rw [total_toNat hv hfit]
  exact if_neg (by omega)

/-- A write transaction may begin with its BYTECNT. -/
def TakesWrite (c : Config) (p : Phase) : Prop :=
  ∀ v, ∃ read, Phase.next c p (.write .bytecnt v) = some (.counted v.toNat true read)

/-- A read transaction may begin with its BYTECNT. -/
def TakesRead (c : Config) (p : Phase) : Prop :=
  ∀ v, ∃ write, Phase.next c p (.write .bytecnt v) = some (.counted v.toNat write true)

theorem takesWrite_fresh (c : Config) : TakesWrite c .fresh := fun _ => ⟨true, rfl⟩
theorem takesWrite_selected (c : Config) : TakesWrite c .selected := fun _ => ⟨false, rfl⟩
theorem takesRead_fresh (c : Config) : TakesRead c .fresh := fun _ => ⟨true, rfl⟩
theorem takesRead_primed (c : Config) : TakesRead c .primed := fun _ => ⟨false, rfl⟩

/-- With two-byte addressing no page select stands between two slices. -/
theorem takesWrite_between {c : Config} (h : c.addrBytes ≠ 1) : TakesWrite c .between := fun _ => ⟨false, if_neg h⟩

/-- BYTECNT, the first byte, STARTXFR in a row. -/
theorem buswStart_leads {p : Phase} {s : State} (hp : TakesWrite s.cfg p) :
    Leads p s (.moving (writeTransfer s.cfg (s.work.tot - 1#32).toNat) (s.work.tot - 1#32).toNat 0) (buswStart s) := by
  obtain ⟨read, hcount⟩ := hp (s.work.tot - 1#32)
  exact (((leads_busWrite hcount).trans (leads_busWrite rfl)).trans (leads_busWrite rfl)).withWork _

/-- BUSW up to its last byte position. -/
theorem buswLoop_start_leads {p : Phase} {s : State} (hv : s.cfg.Valid) (hp : TakesWrite s.cfg p) (ta bo tn : Word) :
    Leads p s (.moving (writeTransfer s.cfg (tn + s.cfg.addrWord - 1#32).toNat) 0 0)
      (buswLoop (tn + s.cfg.addrWord - 1#32).toNat (buswStart (s.setBusw ta bo tn))) := by
  have hstart : Leads p s _ (buswStart (s.setBusw ta bo tn)) := buswStart_leads (s := s.setBusw ta bo tn) hp
  exact hstart.trans (buswLoop_leads (hstart.1.symm ▸ dividerOk_of_valid hv) (writeTransfer_ne_read _ _) _)

theorem busw_leads {p : Phase} {s : State} (hv : s.cfg.Valid) (hp : TakesWrite s.cfg p) (ta bo tn : Word) :
    Leads p s (Phase.completed (writeTransfer s.cfg (tn + s.cfg.addrWord - 1#32).toNat)) (busw ta bo tn s) := by
  have hloop := buswLoop_start_leads hv hp ta bo tn
  rw [busw_eq]
  exact hloop.trans (waitIdle_leads (hloop.1.symm ▸ dividerOk_of_valid hv) _ _)

/-! ### BUSR (R206, R207) -/

theorem busrPosition_leads {s : State} (hd : DividerOk s.cfg) (left : Nat) :
    Leads (.moving .read (left + 1) 0) s (.moving .read left 0) (busrPosition s) := by
  obtain ⟨vs, j, v, e, m, evs, ts, h, hlen, hcase⟩ := busrPosition_spec s
  rw [h]
  refine ⟨rfl, evs, rfl, ?_⟩
  rcases hcase with ⟨-, ⟨w, hhit⟩, -, rfl⟩ | ⟨-, hmiss, -, rfl⟩
  · have hready : Phase.run s.cfg (.moving .read (left + 1) 0) (vs.map (Event.read .status)) =
        some (.ready .read (left + 1)) := run_hit hhit hlen
    rw [Phase.run_append hready]
    rfl
  · exact run_miss hd.maxBusyLoop.1 hmiss

theorem busrLoop_leads {s : State} (hd : DividerOk s.cfg) (n : Nat) :
    Leads (.moving .read n 0) s (.moving .read 0 0) (busrLoop n s) := by
  induction n generalizing s with
  | zero => exact .refl _ s
  | succ n ih =>
    have hfirst := busrPosition_leads hd n
    exact hfirst.trans (ih (hfirst.1.symm ▸ hd))

/-- BYTECNT and STARTXFR in a row. -/
theorem busrStart_leads {p : Phase} {s : State} (hp : TakesRead s.cfg p) (hpos : 0 < s.work.tn.toNat) :
    Leads p s (.moving .read s.work.tn.toNat 0) (busrStart s) := by
  obtain ⟨write, hcount⟩ := hp (s.work.tn - 1#32)
  have hn : (s.work.tn - 1#32).toNat + 1 = s.work.tn.toNat := by bv_omega
  have hstart : Phase.next s.cfg (.counted (s.work.tn - 1#32).toNat write true)
      (.write .startxfr Config.startRead) = some (.moving .read s.work.tn.toNat 0) := by
    rw [← hn]
    cases write <;> rfl
  exact ((leads_busWrite hcount).trans (leads_busWrite hstart)).withWork _

theorem busr_eq (bo tn : Word) (s : State) :
    busr bo tn s = waitIdle .busyR (busrLoop tn.toNat (busrStart (s.setBusr bo tn))) := rfl

/-- BUSR up to its last byte position. -/
theorem busrLoop_start_leads {p : Phase} {s : State} (hv : s.cfg.Valid) (hp : TakesRead s.cfg p) (bo : Word)
    {tn : Word} (hpos : 0 < tn.toNat) :
    Leads p s (.moving .read 0 0) (busrLoop tn.toNat (busrStart (s.setBusr bo tn))) := by
  have hstart : Leads p s _ (busrStart (s.setBusr bo tn)) := busrStart_leads (s := s.setBusr bo tn) hp hpos
  exact hstart.trans (busrLoop_leads (hstart.1.symm ▸ dividerOk_of_valid hv) _)

theorem busr_leads {p : Phase} {s : State} (hv : s.cfg.Valid) (hp : TakesRead s.cfg p) (bo : Word) {tn : Word}
    (hpos : 0 < tn.toNat) : Leads p s .between (busr bo tn s) := by
  have hloop := busrLoop_start_leads hv hp bo hpos
  rw [busr_eq]
  exact hloop.trans (waitIdle_leads (hloop.1.symm ▸ dividerOk_of_valid hv) .read _)

/-! ### BUS_INIT and the MAPPER (R140, R143, R210, R211) -/

theorem busInit_leads (s : State) : Leads .fresh s .between (busInit s) := by
  obtain ⟨e, h⟩ := busInit_spec s
  rw [h]
  exact ⟨rfl, _, rfl, rfl⟩

/-- A slice of the MAPPER may begin. -/
def EntersSlice (p : Phase) : Prop := p = .fresh ∨ p = .between

/-- After the page select, if there is one, the slice's write transaction may begin (R143). -/
theorem pageSelect_leads {p : Phase} (hp : EntersSlice p) (a : Word) (s : State) :
    ∃ q, TakesWrite s.cfg q ∧ Leads p s q (pageSelect a s) := by
  unfold pageSelect
  split
  · next h1 =>
    refine ⟨.selected, takesWrite_selected _, leads_busWrite (s := s.setPage (shiftedPage a)) ?_⟩
    rcases hp with rfl | rfl <;> exact if_pos h1
  · next h1 =>
    refine ⟨p, ?_, .refl p s⟩
    rcases hp with rfl | rfl
    · exact takesWrite_fresh _
    · exact takesWrite_between h1

/-- The read directly follows its dummy write (R211). -/
theorem readAt_leads {p : Phase} (hp : EntersSlice p) {s : State} (hv : s.cfg.Valid) {n : Word} (hpos : 0 < n.toNat) :
    Leads p s .between (readAt n s) := by
  obtain ⟨q, hq, hselect⟩ := pageSelect_leads hp s.work.a s
  have hv' : (pageSelect s.work.a s).cfg.Valid := hselect.1.symm ▸ hv
  have hdummy := busw_leads hv' (hselect.1.symm ▸ hq) s.work.a s.work.bo 0#32
  rw [writeTransfer_dummy hv'] at hdummy
  exact (hselect.trans hdummy).trans (busr_leads (hdummy.1.symm ▸ hv') (takesRead_primed _) _ hpos)

/-- The write-cycle delay directly follows its write (R140, R209). -/
theorem writeAt_leads {p : Phase} (hp : EntersSlice p) {s : State} (hv : s.cfg.Valid) {n : Word} (hpos : 0 < n.toNat)
    (hfit : n.toNat ≤ s.cfg.bufSize) : Leads p s .between (writeAt n s) := by
  obtain ⟨q, hq, hselect⟩ := pageSelect_leads hp s.work.a s
  have hv' : (pageSelect s.work.a s).cfg.Valid := hselect.1.symm ▸ hv
  have hwrite := busw_leads hv' (hselect.1.symm ▸ hq) s.work.a s.work.bo n
  rw [writeTransfer_payload hv' hpos (hselect.1.symm ▸ hfit)] at hwrite
  exact (hselect.trans hwrite).trans (leads_delay rfl)

/-- From the phase `p` at `s` the slices so far lead to where the next one may begin. -/
def LeadsToSlice (p : Phase) (s t : State) : Prop := ∃ q, EntersSlice q ∧ Leads p s q t

theorem leadsToSlice_carries {z : Word} {act : Word → State → State} (total : Nat) (p : Phase) {s : State}
    (hact : ∀ n t q, (n = z ∨ n = 1#32) → t.cfg = s.cfg → EntersSlice q → Leads q t .between (act n t)) :
    CarriesSlices z act total (fun _ _ t => LeadsToSlice p s t) := by
  refine ⟨fun _ _ _ _ _ h => h, fun _ _ n t hn _ _ h => ?_⟩
  obtain ⟨q, hq, hleads⟩ := h
  exact ⟨.between, .inr rfl, hleads.trans (hact n t q hn hleads.1 hq)⟩

theorem leadsToSlice_start {p : Phase} (hp : EntersSlice p) (s : State) : LeadsToSlice p s s := ⟨p, hp, .refl p s⟩

section Mapper

variable {p : Phase} (hp : EntersSlice p) {s : State} (hv : s.cfg.Valid)

include hp hv

theorem eerd_leads : LeadsToSlice p s (eerd s) := by
  refine eerd_carries (P := fun _ _ t => LeadsToSlice p s t) (leadsToSlice_carries _ p fun n t q hn hc hq => ?_) rfl
    (leadsToSlice_start hp s)
  have hpos : 0 < n.toNat := by rcases hn with rfl | rfl <;> decide
  exact readAt_leads hq (hc.symm ▸ hv) hpos

theorem eerd1_leads : LeadsToSlice p s (eerd1 s) := by
  refine eerd1_carries (z := 1#32) (P := fun _ _ t => LeadsToSlice p s t)
    (leadsToSlice_carries _ p fun n t q hn hc hq => ?_) rfl (leadsToSlice_start hp s)
  obtain rfl : n = 1#32 := hn.elim id id
  exact readAt_leads hq (hc.symm ▸ hv) (by decide)

theorem eewr_leads : LeadsToSlice p s (eewr s) := by
  refine eewr_carries (P := fun _ _ t => LeadsToSlice p s t) (leadsToSlice_carries _ p fun n t q hn hc hq => ?_) rfl
    (leadsToSlice_start hp s)
  have hn' : 0 < n.toNat ∧ n.toNat ≤ 16 := by rcases hn with rfl | rfl <;> decide
  exact writeAt_leads hq (hc.symm ▸ hv) hn'.1 (hc.symm ▸ hn'.2.trans (bufSize_of_valid hv))

end Mapper

/-! ### The commands -/

/-- The events from `s` to `t` are those of a whole command, in order. -/
def LeadsToRest (s t : State) : Prop := ∃ q, Leads .fresh s q t ∧ q.resting = true

theorem LeadsToSlice.rest {s t : State} (h : LeadsToSlice .fresh s t) : LeadsToRest s t := by
  obtain ⟨q, hq, hleads⟩ := h
  exact ⟨q, hleads, by rcases hq with rfl | rfl <;> rfl⟩

/-- BUS_INIT, then the slices of READ or WRITE. -/
theorem LeadsToSlice.afterInit {s t : State} (h : LeadsToSlice .between (busInit s) t) : LeadsToRest s t := by
  obtain ⟨q, hq, hleads⟩ := h
  exact LeadsToSlice.rest ⟨q, hq, (busInit_leads s).trans hleads⟩

theorem completed_resting (t : Transfer) : (Phase.completed t).resting = true := by cases t <;> rfl

/-- BUSR's length is not 0 (R78, R113). -/
theorem busr_length_pos {c : Config} {a n : Word} (h : (Instr.busr a n).wellFormed c = true) : 0 < n.toNat := by
  have hne : n ≠ 0#32 := by
    rintro rfl
    cases h
  bv_omega

theorem commandBody_leads {i : Instr} {s : State} (h : Accepts i s) :
    LeadsToRest (latch i s) (commandBody i (latch i s)) := by
  obtain ⟨hv, -, hw⟩ := h
  have hlatch : (latch i s).cfg.Valid := hv
  have hinit : (busInit (latch i s)).cfg.Valid := (busInit_cfg (latch i s)).symm ▸ hv
  cases i with
  | init a n => exact ⟨.between, busInit_leads _, rfl⟩
  | read a n => exact (eerd_leads (.inr rfl) hinit).afterInit
  | write a n => exact (eewr_leads (.inr rfl) hinit).afterInit
  | dump a n => exact ⟨.reported, ⟨rfl, _, report_trace _, rfl⟩, rfl⟩
  | busw a n => exact ⟨_, busw_leads hlatch (takesWrite_fresh _) a 0#32 n, completed_resting _⟩
  | busr a n => exact ⟨.between, busr_leads hlatch (takesRead_fresh _) 0#32 (busr_length_pos hw), rfl⟩
  | eerd a n => exact (eerd_leads (.inl rfl) hlatch).rest
  | eerd1 a n => exact (eerd1_leads (.inl rfl) hlatch).rest
  | eewr a n => exact (eewr_leads (.inl rfl) hlatch).rest

/-- Settles O41, by `commandBody_leads`. -/
theorem everyCommandIsDisciplined : Obligations.EveryCommandIsDisciplined := by
  intro i s h
  obtain ⟨q, ⟨-, evs, htrace, hrun⟩, hrest⟩ := commandBody_leads h
  exact ⟨_, evs, exec_accepts h, htrace, q, hrun, hrest⟩

end Sys2Proof.Machine
end

section
/-! PROOFS. The bytes of BUSW and BUSR, position by position (R108 to R114), and the completion poll (R103, R208). -/

namespace Sys2Proof.Machine

/-! ### The positions that did not time out -/

/-- The positions below `n` without a timeout on the record `ts`. -/
def hitPositions (mark : Word → Timeout) (n : Nat) (ts : List Timeout) : List Nat :=
  (List.range n).filter fun p => decide (mark (BitVec.ofNat 32 p) ∉ ts)

/-- The record `ts` holds timeouts of positions below `n` only. -/
def MarkedBelow (mark : Word → Timeout) (n : Nat) (ts : List Timeout) : Prop :=
  ∀ x ∈ ts, ∃ p < n, x = mark (BitVec.ofNat 32 p)

theorem lt_of_mem_hitPositions {mark : Word → Timeout} {n p : Nat} {ts : List Timeout}
    (h : p ∈ hitPositions mark n ts) : p < n := List.mem_range.1 (List.mem_of_mem_filter h)

section Positions

variable {mark : Word → Timeout} (hmark : Function.Injective mark)

include hmark

theorem mark_ne {p q : Nat} (hp : p < q) (hq : q < 2 ^ 32) :
    mark (BitVec.ofNat 32 p) ≠ mark (BitVec.ofNat 32 q) := by
  intro h
  have hpq := congrArg BitVec.toNat (hmark h)
  rw [BitVec.toNat_ofNat, BitVec.toNat_ofNat] at hpq
  omega

/-- A position whose poll succeeded. -/
theorem hitPositions_hit {n : Nat} {ts : List Timeout} (hn : n < 2 ^ 32) (h : MarkedBelow mark n ts) :
    hitPositions mark (n + 1) ts = hitPositions mark n ts ++ [n] := by
  have hnew : mark (BitVec.ofNat 32 n) ∉ ts := by
    intro hmem
    obtain ⟨p, hp, heq⟩ := h _ hmem
    exact mark_ne hmark hp hn heq.symm
  simp [hitPositions, List.range_succ, hnew]

/-- A position whose poll timed out. -/
theorem hitPositions_miss {n : Nat} (ts : List Timeout) (hn : n < 2 ^ 32) :
    hitPositions mark (n + 1) (ts ++ [mark (BitVec.ofNat 32 n)]) = hitPositions mark n ts := by
  have hold : ∀ p ∈ List.range n, decide (mark (BitVec.ofNat 32 p) ∉ ts ++ [mark (BitVec.ofNat 32 n)]) =
      decide (mark (BitVec.ofNat 32 p) ∉ ts) := fun p hp => by
    simp [mark_ne hmark (List.mem_range.1 hp) hn]
  rw [hitPositions, List.range_succ, List.filter_append, List.filter_congr hold]
  simp [hitPositions]

end Positions

/-- Timeouts of other sites do not matter. -/
theorem hitPositions_append {mark : Word → Timeout} (n : Nat) (ts : List Timeout) {us : List Timeout}
    (h : ∀ w, mark w ∉ us) : hitPositions mark n (ts ++ us) = hitPositions mark n ts := by
  simp [hitPositions, h]

theorem MarkedBelow.hit {mark : Word → Timeout} {n : Nat} {ts : List Timeout} (h : MarkedBelow mark n ts) :
    MarkedBelow mark (n + 1) ts := fun x hx =>
  have ⟨p, hp, heq⟩ := h x hx
  ⟨p, Nat.lt_succ_of_lt hp, heq⟩

theorem MarkedBelow.miss {mark : Word → Timeout} {n : Nat} {ts : List Timeout} (h : MarkedBelow mark n ts) :
    MarkedBelow mark (n + 1) (ts ++ [mark (BitVec.ofNat 32 n)]) :=
  List.forall_mem_append.2 ⟨h.hit, List.forall_mem_singleton.2 ⟨n, Nat.lt_succ_self n, rfl⟩⟩

theorem tx_injective : Function.Injective Timeout.tx := fun _ _ h => Timeout.tx.inj h
theorem rx_injective : Function.Injective Timeout.rx := fun _ _ h => Timeout.rx.inj h

/-! ### BUSW (R108 to R110) -/

theorem buswLoop_iterate (n : Nat) (s : State) : buswLoop n s = buswPosition^[n] s := by
  induction n generalizing s with
  | zero => rfl
  | succ n ih => exact ih _

theorem buswLoop_succ (n : Nat) (s : State) : buswLoop (n + 1) s = buswPosition (buswLoop n s) := by
  rw [buswLoop_iterate, buswLoop_iterate, Function.iterate_succ_apply']

theorem dataoutWords_append (es fs : List Event) : dataoutWords (es ++ fs) = dataoutWords es ++ dataoutWords fs := by
  induction es with
  | nil => rfl
  | cons e es ih =>
    rcases e with ⟨_ | _ | _ | _ | _ | _ | _, v⟩ | ⟨r, v⟩ | n | _
    case write.dataout => exact congrArg (v :: ·) ih
    all_goals exact ih

theorem dataoutWords_samples (vs : List Word) : dataoutWords (vs.map (Event.read .status)) = [] := by
  induction vs with
  | nil => rfl
  | cons v vs ih => exact ih

theorem datainWords_samples (vs : List Word) : datainWords (vs.map (Event.read .status)) = [] := by
  induction vs with
  | nil => rfl
  | cons v vs ih => exact ih

/-- `n` positions from `s` to `t`: the events `evs` hold the bytes of the positions that did not time out, and the
timeouts `ts` are those of the others. -/
structure SendsBy (n : Nat) (s t : State) (evs : List Event) (ts : List Timeout) : Prop where
  trace : t.trace = s.trace ++ evs
  timeouts : t.timeouts = s.timeouts ++ ts
  marked : MarkedBelow .tx n ts
  words : dataoutWords evs = (hitPositions .tx n ts).map fun p => nextByte (s.setI (BitVec.ofNat 32 p))

/-- BUSW's byte loop sends each position's own byte, or nothing for it. -/
theorem buswLoop_sends {n : Nat} (hn : n < 2 ^ 32) {s : State} (hi : s.work.i = 0#32) :
    ∃ evs ts, SendsBy n s (buswLoop n s) evs ts := by
  induction n with
  | zero => exact ⟨[], [], (List.append_nil _).symm, (List.append_nil _).symm, fun _ h => (nomatch h), rfl⟩
  | succ n ih =>
    obtain ⟨es, as, htrace, htimeouts, hmarked, hwords⟩ := ih (by omega)
    obtain ⟨_, _, _, _, _, _, hloop⟩ := buswLoop_frame n s
    have hidx : (buswLoop n s).work.i = BitVec.ofNat 32 n := by
      rw [hloop]
      show s.work.i + BitVec.ofNat 32 n = _
      rw [hi, BitVec.zero_add]
    have hbyte : nextByte (buswLoop n s) = nextByte (s.setI (BitVec.ofNat 32 n)) := by
      refine nextByte_congr ?_ ?_ ?_ ?_ hidx <;> rw [hloop] <;> rfl
    obtain ⟨vs, j, v, e, d, fs, bs, h, -, hcase⟩ := buswPosition_spec (buswLoop n s)
    rw [hidx, hbyte] at hcase
    have htrace' : (buswLoop (n + 1) s).trace = s.trace ++ (es ++ fs) := by
      rw [buswLoop_succ, h, ← List.append_assoc, ← htrace]
      rfl
    have htimeouts' : (buswLoop (n + 1) s).timeouts = s.timeouts ++ (as ++ bs) := by
      rw [buswLoop_succ, h, ← List.append_assoc, ← htimeouts]
      rfl
    rcases hcase with ⟨rfl, -, -, rfl⟩ | ⟨rfl, -, -, rfl⟩
    · rw [List.append_nil] at htimeouts'
      refine ⟨_, _, htrace', htimeouts', hmarked.hit, ?_⟩
      rw [hitPositions_hit tx_injective (by omega) hmarked, dataoutWords_append, dataoutWords_append,
        dataoutWords_samples, hwords, List.map_append]
      rfl
    · refine ⟨_, _, htrace', htimeouts', hmarked.miss, ?_⟩
      rw [hitPositions_miss tx_injective as (by omega), dataoutWords_append, dataoutWords_samples, hwords,
        List.append_nil]

/-- A condition on every emitted event holds of the events there are. -/
theorem Emits.forall_mem {P : Event → Prop} {s t : State} (h : Emits P s t) {evs : List Event}
    (htrace : t.trace = s.trace ++ evs) : ∀ e ∈ evs, P e := by
  obtain ⟨es, hes, hP, -⟩ := h
  rwa [List.append_cancel_left (hes.symm.trans htrace)] at hP

theorem toWord_lowByte_nextByte (s : State) : (nextByte s).lowByte.toWord = nextByte s := by
  obtain ⟨b, hb⟩ := nextByte_legal s s.cfg
  rw [hb, lowByte_toWord]

theorem toWord_lowByte_firstByte (s : State) : (firstByte s).lowByte.toWord = firstByte s := by
  obtain ⟨b, hb⟩ := firstByte_legal s s.cfg
  rw [hb, lowByte_toWord]

/-- BYTECNT, the first DATAOUT and STARTXFR. -/
theorem buswStart_trace (s : State) :
    (buswStart s).trace = s.trace ++ [.write .bytecnt (s.work.tot - 1#32), .write .dataout (firstByte s),
      .write .startxfr Config.startWrite] := by
  have hfirst : firstByte (busWrite .bytecnt (s.work.tot - 1#32) s) = firstByte s := firstByte_congr rfl rfl
  simp [buswStart, hfirst]

theorem buswStart_timeouts (s : State) : (buswStart s).timeouts = s.timeouts := by simp [buswStart]

/-- What the completion poll appends (R103). -/
theorem waitIdle_appends {s : State} (hd : DividerOk s.cfg) (m : Timeout) :
    ∃ (vs : List Word) (ts : List Timeout), (waitIdle m s).trace = s.trace ++ vs.map (Event.read .status) ∧
      (waitIdle m s).timeouts = s.timeouts ++ ts ∧ (waitIdle m s).buf = s.buf ∧ ∀ x ∈ ts, x = m := by
  obtain ⟨vs, v, e, -, -, -, -, h⟩ := waitIdleSamplesUntilIdleOrTheBound s m hd.busyLoop.1
  refine ⟨vs ++ [v], if v.getLsbD 0 then [m] else [], by rw [h], by rw [h], by rw [h], fun x hx => ?_⟩
  split at hx
  · exact List.mem_singleton.1 hx
  · cases hx

/-- Position `p` of BUSW sends byte `p + 1` of the transaction (R109). -/
theorem position_byte {s : State} (hv : s.cfg.Valid) (ta bo : Word) {tn : Word} (hbuf : tn.toNat ≤ s.cfg.bufSize)
    (hfit : bo.toNat + tn.toNat < 2 ^ 32) {p : Nat} (hp : p < (tn + s.cfg.addrWord - 1#32).toNat) :
    nextByte ((buswStart (s.setBusw ta bo tn)).setI (BitVec.ofNat 32 p)) =
      ((wireBytes s ta bo.toNat tn.toNat).getD (p + 1) 0#8).toWord := by
  obtain ⟨-, -, -, -, -, hi⟩ := buswStart_leaves (s.setBusw ta bo tn)
  rw [← wireBytes_start hv ta bo hbuf hfit, List.getD_cons_succ, nextBytes, List.getD_eq_getElem _ _ (by simpa using hp),
    List.getElem_map, List.getElem_range, hi, BitVec.zero_add, toWord_lowByte_nextByte]

/-- BUSW, its bytes by position. -/
theorem busw_sends {s : State} (hv : s.cfg.Valid) (ta bo : Word) {tn : Word} (hbuf : tn.toNat ≤ s.cfg.bufSize)
    (hfit : bo.toNat + tn.toNat < 2 ^ 32) :
    ∃ rest ts, (busw ta bo tn s).trace = s.trace ++
        ([.write .bytecnt (tn + s.cfg.addrWord - 1#32),
          .write .dataout ((wireBytes s ta bo.toNat tn.toNat).headD 0#8).toWord,
          .write .startxfr Config.startWrite] ++ rest) ∧
      (busw ta bo tn s).timeouts = s.timeouts ++ ts ∧
      (∀ e ∈ rest, (∃ v, e = .read .status v) ∨ ∃ v, e = .write .dataout v) ∧
      dataoutWords rest = (hitPositions .tx (tn + s.cfg.addrWord - 1#32).toNat ts).map fun p =>
        ((wireBytes s ta bo.toNat tn.toNat).getD (p + 1) 0#8).toWord := by
  obtain ⟨hcfg, -, -, -, -, hi⟩ := buswStart_leaves (s.setBusw ta bo tn)
  have hfirst : ((wireBytes s ta bo.toNat tn.toNat).headD 0#8).toWord = firstByte (s.setBusw ta bo tn) := by
    rw [← wireBytes_start hv ta bo hbuf hfit]
    exact toWord_lowByte_firstByte _
  have hbyte := fun p => position_byte hv ta bo hbuf hfit (p := p)
  have hstart := buswStart_trace (s.setBusw ta bo tn)
  have htimeouts' := buswStart_timeouts (s.setBusw ta bo tn)
  rw [hfirst, busw_eq]
  generalize buswStart (s.setBusw ta bo tn) = s1 at *
  generalize hn : (tn + s.cfg.addrWord - 1#32).toNat = n at hbyte ⊢
  obtain ⟨evs, ts, hsends⟩ := buswLoop_sends (n := n) (by omega) hi
  have hd : DividerOk (buswLoop n s1).cfg := by
    rw [buswLoop_cfg, hcfg]
    exact dividerOk_of_valid hv
  obtain ⟨vs, us, htrace, htimeouts, -, hus⟩ := waitIdle_appends hd .busyW
  refine ⟨evs ++ vs.map (Event.read .status), ts ++ us, ?_⟩
  refine ⟨?_, ?_, ?_, ?_⟩
  · rw [htrace, hsends.trace, hstart]
    simp
  · rw [htimeouts, hsends.timeouts, htimeouts', setBusw_timeouts, List.append_assoc]
  · refine List.forall_mem_append.2 ⟨?_, by simp⟩
    exact (buswLoop_emits (P := fun e => (∃ v, e = .read .status v) ∨ ∃ v, e = .write .dataout v)
      (fun v => .inl ⟨v, rfl⟩) (fun b => .inr ⟨_, rfl⟩) n s1).forall_mem hsends.trace
  · have hother : ∀ w, Timeout.tx w ∉ us := fun w hw => nomatch hus _ hw
    rw [dataoutWords_append, dataoutWords_samples, List.append_nil, hsends.words, hitPositions_append n ts hother]
    exact List.map_congr_left fun p hp => hbyte p (lt_of_mem_hitPositions hp)

/-- Settles O21, by `busw_sends`. -/
theorem buswSendsTheBytesByPosition : Obligations.BuswSendsTheBytesByPosition := by
  intro s a n h
  obtain ⟨hv, -, hwf⟩ := id h
  have hbuf := (fitsBuf_iff s.cfg n).1 hwf
  obtain ⟨rest, ts, htrace, htimeouts, hrest, hwords⟩ :=
    busw_sends (s := latch (.busw a n) s) hv a 0#32 hbuf (by simp [n.isLt])
  rw [latch_cfg, total_toNat hv hbuf] at hwords
  rw [latch_cfg, total_eq hv hbuf] at htrace
  exact ⟨_, rest, ts, exec_accepts h, htrace, htimeouts, hrest, hwords⟩

/-! ### BUSR (R111, R112, R114) -/

theorem busrLoop_iterate (n : Nat) (s : State) : busrLoop n s = busrPosition^[n] s := by
  induction n generalizing s with
  | zero => rfl
  | succ n ih => exact ih _

theorem busrLoop_succ (n : Nat) (s : State) : busrLoop (n + 1) s = busrPosition (busrLoop n s) := by
  rw [busrLoop_iterate, busrLoop_iterate, Function.iterate_succ_apply']

/-- The bytes `ws` stand in BUF at the positions `hits`, in order, and every other byte is the one of `s`. -/
structure TakenAt (hits : List Nat) (ws : List Word) (s t : State) : Prop where
  count : ws.length = hits.length
  taken : ∀ p ∈ hits.zip ws, t.bufByte p.1 = p.2.lowByte
  kept : ∀ i, i ∉ hits → t.bufByte i = s.bufByte i

theorem TakenAt.congr {hits : List Nat} {ws : List Word} {s t u : State} (h : TakenAt hits ws s t)
    (hbuf : u.buf = t.buf) : TakenAt hits ws s u := by
  refine ⟨h.count, fun p hp => ?_, fun i hi => ?_⟩
  · rw [State.bufByte_congr hbuf, h.taken p hp]
  · rw [State.bufByte_congr hbuf, h.kept i hi]

/-- One more byte, at a new position. -/
theorem TakenAt.store {hits : List Nat} {ws : List Word} {s t : State} (h : TakenAt hits ws s t) {n : Nat}
    (hn : n ∉ hits) (w : Word) : TakenAt (hits ++ [n]) (ws ++ [w]) s (t.bufStore n w.lowByte) := by
  refine ⟨by simp [h.count], fun p hp => ?_, fun i hi => ?_⟩
  · rw [List.zip_append h.count.symm, List.mem_append, List.zip_cons_cons, List.zip_nil_right,
      List.mem_singleton] at hp
    rw [State.bufByte_bufStore]
    rcases hp with hp | rfl
    · have hne : p.1 ≠ n := fun heq => hn (heq ▸ (List.of_mem_zip hp).1)
      rw [if_neg hne, h.taken p hp]
    · exact if_pos rfl
  · rw [List.mem_append, List.mem_singleton, not_or] at hi
    rw [State.bufByte_bufStore, if_neg hi.2, h.kept i hi.1]

/-- `n` positions from `s` to `t`: the timeouts `ts` are those of the positions that timed out, the others took the
DATAIN words of `evs`. -/
structure ReceivesBy (n : Nat) (s t : State) (evs : List Event) (ts : List Timeout) : Prop where
  trace : t.trace = s.trace ++ evs
  timeouts : t.timeouts = s.timeouts ++ ts
  marked : MarkedBelow .rx n ts
  taken : TakenAt (hitPositions .rx n ts) (datainWords evs) s t

/-- BUSR's byte loop takes each position's own byte, or nothing for it. -/
theorem busrLoop_receives {n : Nat} (hn : n < 2 ^ 32) {s : State} (hbo : s.work.bo = 0#32) (hi : s.work.i = 0#32) :
    ∃ evs ts, ReceivesBy n s (busrLoop n s) evs ts := by
  induction n with
  | zero =>
    exact ⟨[], [], (List.append_nil _).symm, (List.append_nil _).symm, fun _ h => (nomatch h),
      rfl, fun _ h => (nomatch h), fun _ _ => rfl⟩
  | succ n ih =>
    obtain ⟨es, as, htrace, htimeouts, hmarked, htaken⟩ := ih (by omega)
    obtain ⟨_, _, _, _, _, _, hloop⟩ := busrLoop_frame n s
    have hidx : (busrLoop n s).work.i = BitVec.ofNat 32 n := by
      rw [hloop]
      show s.work.i + BitVec.ofNat 32 n = _
      rw [hi, BitVec.zero_add]
    have hbo' : (busrLoop n s).work.bo = 0#32 := by
      rw [hloop]
      exact hbo
    obtain ⟨vs, j, v, e, m, fs, bs, h, -, hcase⟩ := busrPosition_spec (busrLoop n s)
    rw [hidx, hbo', BitVec.zero_add, BitVec.toNat_ofNat, Nat.mod_eq_of_lt (by omega)] at hcase
    have htrace' : (busrLoop (n + 1) s).trace = s.trace ++ (es ++ fs) := by
      rw [busrLoop_succ, h, ← List.append_assoc, ← htrace]
      rfl
    have htimeouts' : (busrLoop (n + 1) s).timeouts = s.timeouts ++ (as ++ bs) := by
      rw [busrLoop_succ, h, ← List.append_assoc, ← htimeouts]
      rfl
    have hbuf : (busrLoop (n + 1) s).buf = m := by
      rw [busrLoop_succ, h]
      rfl
    rcases hcase with ⟨rfl, -, hm, rfl⟩ | ⟨rfl, -, hm, rfl⟩
    · rw [List.append_nil] at htimeouts'
      have hnew : n ∉ hitPositions .rx n as := fun hmem => absurd (lt_of_mem_hitPositions hmem) (Nat.lt_irrefl n)
      have hwords : datainWords (es ++ (vs.map (Event.read .status) ++ [.read .datain v])) = datainWords es ++ [v] := by
        rw [datainWords_append, datainWords_append, datainWords_samples]
        rfl
      refine ⟨_, _, htrace', htimeouts', hmarked.hit, ?_⟩
      rw [hitPositions_hit rx_injective (by omega) hmarked, hwords]
      exact (htaken.store hnew v).congr (hbuf.trans hm)
    · refine ⟨_, _, htrace', htimeouts', hmarked.miss, ?_⟩
      rw [hitPositions_miss rx_injective as (by omega), datainWords_append, datainWords_samples, List.append_nil]
      exact htaken.congr (hbuf.trans hm)

/-- BYTECNT and STARTXFR. -/
theorem busrStart_trace (s : State) :
    (busrStart s).trace = s.trace ++ [.write .bytecnt (s.work.tn - 1#32), .write .startxfr Config.startRead] := by
  simp [busrStart]

theorem busrStart_timeouts (s : State) : (busrStart s).timeouts = s.timeouts := by simp [busrStart]

/-- BYTECNT and STARTXFR leave the arguments of BUSR. -/
theorem busrStart_leaves (s : State) :
    (busrStart s).cfg = s.cfg ∧ (busrStart s).buf = s.buf ∧ (busrStart s).work.bo = s.work.bo ∧
      (busrStart s).work.i = 0#32 := by
  simp [busrStart]

/-- BUSR into BUF from its start on, its bytes by position. -/
theorem busr_receives {s : State} (hv : s.cfg.Valid) (tn : Word) :
    ∃ rest ts, (busr 0#32 tn s).trace = s.trace ++
        ([.write .bytecnt (tn - 1#32), .write .startxfr Config.startRead] ++ rest) ∧
      (busr 0#32 tn s).timeouts = s.timeouts ++ ts ∧
      (∀ e ∈ rest, (∃ v, e = .read .status v) ∨ ∃ v, e = .read .datain v) ∧
      TakenAt (hitPositions .rx tn.toNat ts) (datainWords rest) s (busr 0#32 tn s) := by
  have hstart := busrStart_trace (s.setBusr 0#32 tn)
  have htimeouts' := busrStart_timeouts (s.setBusr 0#32 tn)
  obtain ⟨hcfg, hbuf', hbo, hi⟩ := busrStart_leaves (s.setBusr 0#32 tn)
  obtain ⟨evs, ts, hloop⟩ := busrLoop_receives tn.isLt hbo hi
  rw [busr_eq]
  generalize busrStart (s.setBusr 0#32 tn) = s1 at *
  have hd : DividerOk (busrLoop tn.toNat s1).cfg := by
    rw [busrLoop_cfg, hcfg]
    exact dividerOk_of_valid hv
  obtain ⟨vs, us, htrace, htimeouts, hbuf, hus⟩ := waitIdle_appends hd .busyR
  refine ⟨evs ++ vs.map (Event.read .status), ts ++ us, ?_⟩
  refine ⟨?_, ?_, ?_, ?_⟩
  · rw [htrace, hloop.trace, hstart]
    simp
  · rw [htimeouts, hloop.timeouts, htimeouts', setBusr_timeouts, List.append_assoc]
  · refine List.forall_mem_append.2 ⟨?_, by simp⟩
    exact (busrLoop_emits (P := fun e => (∃ v, e = .read .status v) ∨ ∃ v, e = .read .datain v)
      (fun v => .inl ⟨v, rfl⟩) (fun v => .inr ⟨v, rfl⟩) _ s1).forall_mem hloop.trace
  · have hother : ∀ w, Timeout.rx w ∉ us := fun w hw => nomatch hus _ hw
    rw [datainWords_append, datainWords_samples, List.append_nil, hitPositions_append _ ts hother]
    have htaken := hloop.taken.congr hbuf
    exact ⟨htaken.count, htaken.taken, fun i hi => (htaken.kept i hi).trans (State.bufByte_congr hbuf' i)⟩

/-- Settles O23, by `busr_receives`. -/
theorem busrFillsBufByPosition : Obligations.BusrFillsBufByPosition := by
  intro s a n h
  obtain ⟨rest, ts, htrace, htimeouts, hrest, hcount, htaken, hkept⟩ :=
    busr_receives (s := latch (.busr a n) s) h.1 n
  exact ⟨_, rest, ts, _, exec_accepts h, htrace, htimeouts, hrest, rfl, hcount, htaken, hkept⟩

/-! ### The completion poll (R103, R110, R114, R208) -/

/-- A transaction whose byte positions are handled at `u`, none of their timeouts being a BUSY one, and then its
completion poll. -/
theorem completionPoll {s u : State} {t : Transfer} (hv : s.cfg.Valid) (hlead : Leads .fresh s (.moving t 0 0) u)
    (hts : ∃ ts, u.timeouts = s.timeouts ++ ts ∧ Timeout.busyW ∉ ts ∧ Timeout.busyR ∉ ts) {m : Timeout}
    (hm : m = .busyW ∨ m = .busyR) :
    ∃ evs ts vs v, (waitIdle m u).trace = s.trace ++ evs ++ (vs ++ [v]).map (Event.read .status) ∧
      (waitIdle m u).timeouts = s.timeouts ++ ts ∧ Phase.run s.cfg .fresh evs = some (.moving t 0 0) ∧
      vs.length + 1 ≤ s.cfg.busyLoop ∧ (∀ w ∈ vs, w.getLsbD 0 = true) ∧
      (v.getLsbD 0 = true → vs.length + 1 = s.cfg.busyLoop) ∧
      (v.getLsbD 0 = true ↔ Timeout.busyW ∈ ts ∨ Timeout.busyR ∈ ts) := by
  obtain ⟨hcfg, evs, htrace, hrun⟩ := hlead
  obtain ⟨ts, htimeouts, hbusyW, hbusyR⟩ := hts
  have hd : DividerOk u.cfg := hcfg.symm ▸ dividerOk_of_valid hv
  obtain ⟨vs, v, e, hlen, hvs, hlast, -, h⟩ := waitIdleSamplesUntilIdleOrTheBound u m hd.busyLoop.1
  rw [hcfg] at hlen hlast
  refine ⟨evs, ts ++ (if v.getLsbD 0 then [m] else []), vs, v, ?_, ?_, hrun, hlen, hvs, hlast, ?_⟩
  · rw [h, ← htrace]
  · rw [h, ← List.append_assoc, ← htimeouts]
  · cases v.getLsbD 0 with
    | false => simp [hbusyW, hbusyR]
    | true => rcases hm with rfl | rfl <;> simp

/-- The timeouts of byte positions are no BUSY timeouts. -/
theorem MarkedBelow.not_mem {mark : Word → Timeout} {n : Nat} {ts : List Timeout} (h : MarkedBelow mark n ts)
    {x : Timeout} (hx : ∀ w, mark w ≠ x) : x ∉ ts := fun hmem =>
  have ⟨_, _, heq⟩ := h x hmem
  hx _ heq.symm

/-- The byte positions of BUSW note no BUSY timeout. -/
theorem buswLoop_start_timeouts (ta bo tn : Word) (s : State) :
    ∃ ts, (buswLoop (tn + s.cfg.addrWord - 1#32).toNat (buswStart (s.setBusw ta bo tn))).timeouts =
      s.timeouts ++ ts ∧ Timeout.busyW ∉ ts ∧ Timeout.busyR ∉ ts := by
  obtain ⟨-, -, -, -, -, hi⟩ := buswStart_leaves (s.setBusw ta bo tn)
  obtain ⟨_, ts, hsends⟩ := buswLoop_sends (tn + s.cfg.addrWord - 1#32).isLt hi
  refine ⟨ts, ?_, hsends.marked.not_mem nofun, hsends.marked.not_mem nofun⟩
  rw [hsends.timeouts, buswStart_timeouts, setBusw_timeouts]

/-- The byte positions of BUSR note no BUSY timeout. -/
theorem busrLoop_start_timeouts (tn : Word) (s : State) :
    ∃ ts, (busrLoop tn.toNat (busrStart (s.setBusr 0#32 tn))).timeouts = s.timeouts ++ ts ∧
      Timeout.busyW ∉ ts ∧ Timeout.busyR ∉ ts := by
  obtain ⟨-, -, hbo, hi⟩ := busrStart_leaves (s.setBusr 0#32 tn)
  obtain ⟨_, ts, hrecv⟩ := busrLoop_receives tn.isLt hbo hi
  refine ⟨ts, ?_, hrecv.marked.not_mem nofun, hrecv.marked.not_mem nofun⟩
  rw [hrecv.timeouts, busrStart_timeouts, setBusr_timeouts]

/-- Settles O25: BUSW's and BUSR's byte loops, then `completionPoll`. -/
theorem transactionsEndWithTheCompletionPoll : Obligations.TransactionsEndWithTheCompletionPoll := by
  intro s i a n hi h
  have hlatch : (latch i s).cfg.Valid := h.1
  rcases hi with rfl | rfl
  · have hlead := buswLoop_start_leads hlatch (takesWrite_fresh _) a 0#32 n
    obtain ⟨evs, ts, vs, v, htrace, htimeouts, hrun, hrest⟩ :=
      completionPoll hlatch hlead (buswLoop_start_timeouts _ _ _ _) (.inl rfl)
    rw [← busw_eq] at htrace htimeouts
    exact ⟨_, evs, ts, vs, v, _, exec_accepts h, htrace, htimeouts, hrun, by simp [writeTransfer_ne_read], hrest⟩
  · have hlead := busrLoop_start_leads hlatch (takesRead_fresh _) 0#32 (busr_length_pos h.2.2)
    obtain ⟨evs, ts, vs, v, htrace, htimeouts, hrun, hrest⟩ :=
      completionPoll hlatch hlead (busrLoop_start_timeouts _ _) (.inr rfl)
    rw [← busr_eq] at htrace htimeouts
    exact ⟨_, evs, ts, vs, v, .read, exec_accepts h, htrace, htimeouts, hrun, by simp, hrest⟩

end Sys2Proof.Machine
end

section
/-! PROOFS. How many events BUS_INIT, BUSW and BUSR emit (R116), and what a command does that never sees a byte ready
(R112, R115). -/

namespace Sys2Proof.Machine

/-! ### Event counts (R116) -/

/-- From `s` to `t` between `lo` and `hi` events are emitted. -/
def Counts (lo hi : Nat) (s t : State) : Prop :=
  t.cfg = s.cfg ∧ ∃ evs, t.trace = s.trace ++ evs ∧ lo ≤ evs.length ∧ evs.length ≤ hi

theorem Counts.trans {a b c d : Nat} {s t u : State} (h : Counts a b s t) (g : Counts c d t u) :
    Counts (a + c) (b + d) s u := by
  obtain ⟨hc, es, ht, hlo, hhi⟩ := h
  obtain ⟨hc', fs, hu, hlo', hhi'⟩ := g
  refine ⟨hc'.trans hc, es ++ fs, by rw [hu, ht, List.append_assoc], ?_, ?_⟩
  · rw [List.length_append]
    omega
  · rw [List.length_append]
    omega

/-- A byte loop emits what its positions emit. -/
theorem iterate_counts {lo hi : Nat} {c : Config} {f : State → State} (hf : ∀ s, s.cfg = c → Counts lo hi s (f s))
    (n : Nat) {s : State} (hc : s.cfg = c) : Counts (n * lo) (n * hi) s (f^[n] s) := by
  induction n generalizing s with
  | zero => exact ⟨rfl, [], (List.append_nil _).symm, by simp, by simp⟩
  | succ n ih =>
    have hfirst := hf s hc
    rw [Nat.succ_mul, Nat.succ_mul, Nat.add_comm (n * lo), Nat.add_comm (n * hi)]
    exact hfirst.trans (ih (hfirst.1.trans hc))

/-- A byte poll may take 25 samples or more (R7). -/
theorem two_le_maxBusyLoop {c : Config} (hd : DividerOk c) : 2 ≤ c.maxBusyLoop := by
  have hpos := hd.1
  rw [Config.maxBusyLoop]
  omega

/-- The samples of a byte poll that hits, and the byte's own event. -/
theorem Hit.count {test : Word → Bool} {bound : Nat} {vs : List Word} {v : Word} (h : Hit test vs v)
    (hlen : vs.length ≤ bound) (e : Event) :
    2 ≤ (vs.map (Event.read .status) ++ [e]).length ∧ (vs.map (Event.read .status) ++ [e]).length ≤ bound + 1 := by
  obtain ⟨vs, rfl, -⟩ := h
  simpa using hlen

/-- The samples of a byte poll that times out. -/
theorem Miss.count {test : Word → Bool} {c : Config} (hd : DividerOk c) {vs : List Word}
    (h : Miss test c.maxBusyLoop vs) :
    2 ≤ (vs.map (Event.read .status)).length ∧ (vs.map (Event.read .status)).length ≤ c.maxBusyLoop + 1 := by
  rw [List.length_map, h.1]
  exact ⟨two_le_maxBusyLoop hd, Nat.le_succ _⟩

theorem buswPosition_counts {s : State} (hd : DividerOk s.cfg) :
    Counts 2 (s.cfg.maxBusyLoop + 1) s (buswPosition s) := by
  obtain ⟨vs, j, v, e, d, evs, ts, h, hlen, hcase⟩ := buswPosition_spec s
  rw [h]
  refine ⟨rfl, evs, rfl, ?_⟩
  rcases hcase with ⟨-, hhit, -, rfl⟩ | ⟨-, hmiss, -, rfl⟩
  · exact hhit.count hlen _
  · exact hmiss.count hd

theorem busrPosition_counts {s : State} (hd : DividerOk s.cfg) :
    Counts 2 (s.cfg.maxBusyLoop + 1) s (busrPosition s) := by
  obtain ⟨vs, j, v, e, m, evs, ts, h, hlen, hcase⟩ := busrPosition_spec s
  rw [h]
  refine ⟨rfl, evs, rfl, ?_⟩
  rcases hcase with ⟨-, ⟨w, hhit⟩, -, rfl⟩ | ⟨-, hmiss, -, rfl⟩
  · exact hhit.count hlen _
  · exact hmiss.count hd

theorem waitIdle_counts {s : State} (hd : DividerOk s.cfg) (m : Timeout) :
    Counts 1 s.cfg.busyLoop s (waitIdle m s) := by
  obtain ⟨vs, v, e, hlen, -, -, -, h⟩ := waitIdleSamplesUntilIdleOrTheBound s m hd.busyLoop.1
  rw [h]
  exact ⟨rfl, _, rfl, by simp, by simpa using hlen⟩

/-- BUSW: three events, its positions, the completion poll. -/
theorem busw_counts {s : State} (hd : DividerOk s.cfg) (ta bo tn : Word) {n : Nat}
    (hn : (tn + s.cfg.addrWord - 1#32).toNat = n) :
    Counts (3 + n * 2 + 1) (3 + n * (s.cfg.maxBusyLoop + 1) + s.cfg.busyLoop) s (busw ta bo tn s) := by
  obtain ⟨hcfg, -⟩ := buswStart_leaves (s.setBusw ta bo tn)
  have hstart : Counts 3 3 s (buswStart (s.setBusw ta bo tn)) :=
    ⟨hcfg, _, buswStart_trace _, Nat.le_refl 3, Nat.le_refl 3⟩
  have hloop := iterate_counts (fun t ht => ht ▸ buswPosition_counts (s := t) (ht.symm ▸ hd)) n hstart.1
  rw [← buswLoop_iterate] at hloop
  have hboth := hstart.trans hloop
  have hwait := waitIdle_counts (hboth.1.symm ▸ hd) .busyW
  rw [hboth.1] at hwait
  rw [busw_eq, hn]
  exact hboth.trans hwait

/-- BUSR: two events, its positions, the completion poll. -/
theorem busr_counts {s : State} (hd : DividerOk s.cfg) (bo tn : Word) :
    Counts (2 + tn.toNat * 2 + 1) (2 + tn.toNat * (s.cfg.maxBusyLoop + 1) + s.cfg.busyLoop) s (busr bo tn s) := by
  obtain ⟨hcfg, -⟩ := busrStart_leaves (s.setBusr bo tn)
  have hstart : Counts 2 2 s (busrStart (s.setBusr bo tn)) :=
    ⟨hcfg, _, busrStart_trace _, Nat.le_refl 2, Nat.le_refl 2⟩
  have hloop := iterate_counts (fun t ht => ht ▸ busrPosition_counts (s := t) (ht.symm ▸ hd)) tn.toNat hstart.1
  rw [← busrLoop_iterate] at hloop
  have hboth := hstart.trans hloop
  have hwait := waitIdle_counts (hboth.1.symm ▸ hd) .busyR
  rw [hboth.1] at hwait
  rw [busr_eq]
  exact hboth.trans hwait

/-- Settles O26, by `busInit_spec`, `busw_counts` and `busr_counts`. -/
theorem eventCountsAreBounded : Obligations.EventCountsAreBounded := by
  intro s a n
  refine ⟨fun h => ?_, fun h => ?_, fun h => ?_⟩
  · obtain ⟨e, hinit⟩ := busInit_spec (latch (.init a n) s)
    exact ⟨_, _, exec_accepts h, congrArg State.trace hinit, rfl⟩
  · obtain ⟨hv, -, hwf⟩ := id h
    have hn := total_toNat hv ((fitsBuf_iff s.cfg n).1 hwf)
    obtain ⟨-, evs, htrace, hlo, hhi⟩ :=
      busw_counts (s := latch (.busw a n) s) (dividerOk_of_valid hv) a 0#32 n hn
    refine ⟨_, evs, exec_accepts h, htrace, ?_, hhi⟩
    rwa [Nat.mul_comm 2]
  · obtain ⟨-, evs, htrace, hlo, hhi⟩ :=
      busr_counts (s := latch (.busr a n) s) (dividerOk_of_valid h.1) 0#32 n
    refine ⟨_, evs, exec_accepts h, htrace, ?_, hhi⟩
    rwa [Nat.mul_comm 2]

/-! ### No byte ready, no byte read (R112, R115) -/

/-- From `s` to `t`: if no STATUS sample shows DATARDY, no DATAIN read is made and BUF is as before. -/
def Stale (s t : State) : Prop :=
  ∃ evs, t.trace = s.trace ++ evs ∧
    ((∀ v, Event.read .status v ∈ evs → statusDataReady v = false) → datainWords evs = [] ∧ t.buf = s.buf)

theorem Stale.trans {s t u : State} (h : Stale s t) (g : Stale t u) : Stale s u := by
  obtain ⟨es, ht, hes⟩ := h
  obtain ⟨fs, hu, hfs⟩ := g
  refine ⟨es ++ fs, by rw [hu, ht, List.append_assoc], fun hall => ?_⟩
  obtain ⟨hwords, hbuf⟩ := hes fun v hv => hall v (List.mem_append_left _ hv)
  obtain ⟨hwords', hbuf'⟩ := hfs fun v hv => hall v (List.mem_append_right _ hv)
  exact ⟨by rw [datainWords_append, hwords, hwords', List.append_nil], hbuf'.trans hbuf⟩

/-- What makes no DATAIN read and leaves BUF. -/
theorem Stale.of_emits {s t : State} (h : Emits Event.NotDatain s t) (hbuf : t.buf = s.buf) : Stale s t := by
  obtain ⟨evs, htrace, hevs, -⟩ := h
  exact ⟨evs, htrace, fun _ => ⟨datainWords_eq_nil hevs, hbuf⟩⟩

theorem Stale.refl (s : State) : Stale s s := .of_emits (.silent rfl rfl) rfl

/-- A position whose poll hits has seen DATARDY; one that times out leaves BUF. -/
theorem busrPosition_stale (s : State) : Stale s (busrPosition s) := by
  obtain ⟨vs, j, v, e, m, evs, ts, h, -, hcase⟩ := busrPosition_spec s
  rw [h]
  refine ⟨evs, rfl, fun hall => ?_⟩
  rcases hcase with ⟨-, ⟨w, vs, rfl, hready, -⟩, -, rfl⟩ | ⟨-, -, rfl, rfl⟩
  · have hnot := hall w (by simp)
    rw [hready] at hnot
    cases hnot
  · exact ⟨datainWords_samples vs, rfl⟩

theorem busrLoop_stale (n : Nat) (s : State) : Stale s (busrLoop n s) := by
  induction n generalizing s with
  | zero => exact .refl s
  | succ n ih => exact (busrPosition_stale s).trans (ih _)

theorem waitIdle_stale (m : Timeout) (s : State) : Stale s (waitIdle m s) := by
  obtain ⟨_, _, _, _, _, h, -⟩ := waitIdle_spec m s
  have hbuf : (waitIdle m s).buf = s.buf := by
    rw [h]
    rfl
  exact .of_emits (waitIdle_emits (fun _ _ => nofun) m s) hbuf

theorem busr_stale (bo tn : Word) (s : State) : Stale s (busr bo tn s) := by
  have hstart : Emits Event.NotDatain s (busrStart (s.setBusr bo tn)) :=
    ((emits_busWrite (v := tn - 1#32) (fun _ => nofun) (s.setBusr bo tn)).trans
      (emits_busWrite (fun _ => nofun) _)).setI 0#32
  obtain ⟨-, hbuf, -⟩ := busrStart_leaves (s.setBusr bo tn)
  rw [busr_eq]
  exact ((Stale.of_emits hstart hbuf).trans (busrLoop_stale _ _)).trans (waitIdle_stale _ _)

theorem busw_stale (ta bo tn : Word) (s : State) : Stale s (busw ta bo tn s) :=
  .of_emits (busw_emits (fun _ _ => nofun) (fun _ _ => nofun) (fun _ => nofun) _ _ (fun _ => nofun))
    (busw_leaves ta bo tn s).1

theorem pageSelect_stale (a : Word) (s : State) : Stale s (pageSelect a s) :=
  .of_emits (pageSelect_emits fun _ _ => nofun) (pageSelect_leaves a s).1

theorem readAt_stale (n : Word) (s : State) : Stale s (readAt n s) :=
  ((pageSelect_stale _ s).trans (busw_stale _ _ _ _)).trans (busr_stale _ _ _)

theorem writeAt_stale (n : Word) (s : State) : Stale s (writeAt n s) :=
  ((pageSelect_stale _ s).trans (busw_stale _ _ _ _)).trans (.of_emits (emits_delay (fun _ => nofun) _) rfl)

theorem stale_carries {z : Word} {act : Word → State → State} (total : Nat) (s : State)
    (hact : ∀ n t, Stale t (act n t)) : CarriesSlices z act total (fun _ _ t => Stale s t) :=
  ⟨fun _ _ _ _ _ h => h, fun _ _ n t _ _ _ h => h.trans (hact n t)⟩

theorem eerd_stale (s : State) : Stale s (eerd s) :=
  eerd_carries (P := fun _ _ t => Stale s t) (stale_carries _ s readAt_stale) rfl (.refl s)

theorem eerd1_stale (s : State) : Stale s (eerd1 s) :=
  eerd1_carries (z := 1#32) (P := fun _ _ t => Stale s t) (stale_carries _ s readAt_stale) rfl (.refl s)

theorem eewr_stale (s : State) : Stale s (eewr s) :=
  eewr_carries (P := fun _ _ t => Stale s t) (stale_carries _ s writeAt_stale) rfl (.refl s)

theorem busInit_stale (s : State) : Stale s (busInit s) := by
  obtain ⟨e, h⟩ := busInit_spec s
  rw [h]
  exact ⟨_, rfl, fun _ => ⟨rfl, rfl⟩⟩

theorem commandBody_stale (i : Instr) (s : State) : Stale s (commandBody i s) := by
  cases i with
  | init _ _ => exact busInit_stale s
  | read _ _ => exact (busInit_stale s).trans (eerd_stale _)
  | write _ _ => exact (busInit_stale s).trans (eewr_stale _)
  | dump _ _ => exact .of_emits (emits_report (fun _ => nofun) s) rfl
  | busw _ _ => exact busw_stale _ _ _ s
  | busr _ _ => exact busr_stale _ _ s
  | eerd _ _ => exact eerd_stale s
  | eerd1 _ _ => exact eerd1_stale s
  | eewr _ _ => exact eewr_stale s

/-- Settles O40, by `commandBody_stale`. -/
theorem withoutDataReadyBufIsStale : Obligations.WithoutDataReadyBufIsStale := by
  intro i s h
  obtain ⟨evs, htrace, hstale⟩ := commandBody_stale i (latch i s)
  exact ⟨_, evs, exec_accepts h, htrace, hstale⟩

end Sys2Proof.Machine
end

section
/-! PROOFS. Three plain cases of the MAPPER: what the page select does (R131), transfers of length 0 (R136, R141, R145),
and EERD below one block, which is EERD1 (R137). -/

namespace Sys2Proof.Machine

/-! ### The page select (R131) -/

theorem shiftedPage_eq (a : Word) : shiftedPage a = BitVec.ofNat 4 (2 * (a.toNat / 256 % 8)) := by
  rw [shiftedPage, ← pageOf_toNat]
  generalize pageOf a = p
  revert p
  decide

/-- With one-byte addressing the page select sets `PAGE` and writes the selector to DEVADDR. -/
theorem pageSelect_one {s : State} (h : s.cfg.addrBytes = 1) (a : Word) :
    pageSelect a s = busWrite .devaddr (selectedDevice a) (s.setPage (shiftedPage a)) := by
  rw [← deviceAddress_shiftedPage]
  exact if_pos h

theorem pageSelect_two {s : State} (h : s.cfg.addrBytes ≠ 1) (a : Word) : pageSelect a s = s := if_neg h

/-- Settles O27, by the two cases of `ADDR_BYTES`. -/
theorem pageSelectWritesTheSelector : Obligations.PageSelectWritesTheSelector := by
  rintro s a v rfl
  refine ⟨fun h1 => ?_, fun h2 => pageSelect_two (by omega) a⟩
  rw [pageSelect_one h1, ← selectedDevice_eq, ← shiftedPage_eq]
  rfl

/-! ### Length 0 (R136, R137, R141, R145) -/

/-- Nothing to transfer: only the loop registers are set to 0. -/
theorem slicedTransfer_zero (z : Word) (act : Word → State → State) {s : State} (h : s.work.len = 0#32) :
    slicedTransfer z act s =
      s.withWork { s.work with nblk := 0#32, rem := 0#32, b := 0#32, k := 0#32 } := by
  have hsplit : splitLength z s = s.setBlocks 0#32 0#32 := by
    rw [splitLength, h, BitVec.zero_udiv, BitVec.zero_umod]
  rw [slicedTransfer, afterBlocks, hsplit, h, BitVec.zero_udiv, BitVec.zero_umod]
  rfl

theorem eerd1_zero {s : State} (h : s.work.len = 0#32) : eerd1 s = s.setK 0#32 := by
  simp only [eerd1, setK_work, h]
  rfl

/-- An accepted command whose body leaves `RUN` answers its body's state. -/
theorem exec_body {i : Instr} {s t : State} (h : Accepts i s) (hbody : commandBody i (latch i s) = t)
    (hrun : t.run = s.run) : exec i s = .next t := by
  obtain ⟨-, hidle, -⟩ := id h
  have hdone : t.withRun .idle = t := by
    rw [← hidle, ← hrun]
    rfl
  rw [exec_accepts h, hbody, hdone]

/-- Settles O35: with length 0 no loop of the three commands makes a round. -/
theorem zeroLengthTransfersDoNothing : Obligations.ZeroLengthTransfersDoNothing := by
  intro s a
  refine ⟨fun h => exec_body h ?_ rfl, fun h => exec_body h (eerd1_zero rfl) rfl, fun h => exec_body h ?_ rfl⟩
  · exact (eerd_eq _).trans (slicedTransfer_zero _ _ rfl)
  · exact (eewr_eq _).trans (slicedTransfer_zero _ _ rfl)

/-! ### Below one block (R137) -/

/-- Fewer bytes than a block are single bytes. -/
theorem slices_of_lt {z n : Nat} (h : n < z) (a : Word) : slices z a n = byteSlices a n := by
  rw [slices_eq, byteSlices_eq, Nat.div_eq_of_lt h, Nat.mod_eq_of_lt h]
  rfl

theorem eerd_sameButWork_eerd1 {s : State} (h : s.work.len.toNat < 16) : SameButWork (eerd s) (eerd1 s) := by
  have hslices := eerd_runSlices s
  rw [slices_of_lt h] at hslices
  exact hslices.symm.trans (eerd1_runSlices s)

/-- Settles O34: both commands run the same slices, and the latched opcode is not read. -/
theorem shortEerdIsEerd1 : Obligations.ShortEerdIsEerd1 := by
  intro s a n h hshort
  have hacc : Accepts (.eerd1 a n) s := h
  have hlatch : SameButWork (latch (.eerd a n) s) (latch (.eerd1 a n) s) := rfl
  have hsame : SameButWork (eerd (latch (.eerd a n) s)) (eerd1 (latch (.eerd1 a n) s)) :=
    (eerd_sameButWork_eerd1 hshort).trans (eerd1_sameButWork hlatch rfl rfl)
  exact ⟨_, _, exec_accepts h, exec_accepts hacc, (congrArg State.trace hsame).symm, hsame.buf,
    (congrArg State.shadow hsame).symm, (congrArg State.env hsame).symm, (congrArg State.timeouts hsame).symm⟩

end Sys2Proof.Machine
end

section
/-! PROOFS. The MAPPER's commands as their transactions, in order (R133, R134, R136 to R143): the framing events, and,
where no transmit poll times out, the bytes sent. -/

namespace Sys2Proof.Machine

/-- From `s` to `t` the framing events are `cs`, and without a transmit timeout the words sent are `ws`. -/
def Frames (cs : List Event) (ws : List Word) (s t : State) : Prop :=
  ∃ evs ts, t.trace = s.trace ++ evs ∧ t.timeouts = s.timeouts ++ ts ∧ controls evs = cs ∧
    ((∀ x ∈ ts, x.isTx = false) → dataoutWords evs = ws)

theorem Frames.refl (s : State) : Frames [] [] s s :=
  ⟨[], [], (List.append_nil _).symm, (List.append_nil _).symm, rfl, fun _ => rfl⟩

theorem controls_append (es fs : List Event) : controls (es ++ fs) = controls es ++ controls fs :=
  List.filter_append ..

theorem Frames.trans {cs ds : List Event} {ws vs : List Word} {s t u : State} (h : Frames cs ws s t)
    (g : Frames ds vs t u) : Frames (cs ++ ds) (ws ++ vs) s u := by
  obtain ⟨es, as, htrace, htimeouts, rfl, hws⟩ := h
  obtain ⟨fs, bs, htrace', htimeouts', rfl, hvs⟩ := g
  refine ⟨es ++ fs, as ++ bs, by rw [htrace', htrace, List.append_assoc],
    by rw [htimeouts', htimeouts, List.append_assoc], controls_append es fs, fun htx => ?_⟩
  obtain ⟨has, hbs⟩ := List.forall_mem_append.1 htx
  rw [dataoutWords_append, hws has, hvs hbs]

/-- No framing event and no byte sent. -/
def Event.Unframed (e : Event) : Prop := e.isControl = false ∧ ∀ v, e ≠ .write .dataout v

theorem controls_eq_nil {es : List Event} (h : ∀ e ∈ es, e.isControl = false) : controls es = [] :=
  List.filter_eq_nil_iff.2 fun e he => Bool.eq_false_iff.1 (h e he)

theorem dataoutWords_eq_nil {es : List Event} (h : ∀ e ∈ es, ∀ v, e ≠ .write .dataout v) : dataoutWords es = [] := by
  induction es with
  | nil => rfl
  | cons e es ih =>
    obtain ⟨he, hes⟩ := List.forall_mem_cons.1 h
    rcases e with ⟨_ | _ | _ | _ | _ | _ | _, v⟩ | ⟨r, v⟩ | n | _
    case write.dataout => exact absurd rfl (he v)
    all_goals exact ih hes

/-! ### One transaction -/

/-- A record without transmit timeouts leaves no position out. -/
theorem hitPositions_tx {ts : List Timeout} (h : ∀ x ∈ ts, x.isTx = false) (n : Nat) :
    hitPositions .tx n ts = List.range n :=
  List.filter_eq_self.2 fun _ _ => decide_eq_true fun hmem => nomatch h _ hmem

theorem wireBytes_length {s : State} (hc : s.cfg.addrBytes = 1 ∨ s.cfg.addrBytes = 2) (a : Word) (bo n : Nat) :
    (wireBytes s a bo n).length = n + s.cfg.addrBytes := by
  have haddr : (addressBytes s.cfg a).length = s.cfg.addrBytes := by
    rcases hc with h | h <;> simp [addressBytes, h]
  rw [wireBytes, List.length_append, List.length_map, List.length_range, haddr, Nat.add_comm]

/-- The first byte and then the byte of every position are all bytes. -/
theorem head_positions {bs : List Byte} {n : Nat} (h : bs.length = n + 1) :
    (bs.headD 0#8).toWord :: (List.range n).map (fun p => (bs.getD (p + 1) 0#8).toWord) = bs.map Byte.toWord := by
  obtain ⟨b, bs, rfl⟩ := List.exists_cons_of_length_eq_add_one h
  obtain rfl : bs.length = n := Nat.succ.inj h
  have hbs : (List.range bs.length).map (fun p => bs.getD p 0#8) = bs :=
    List.ext_getElem (by simp) fun p _ hp => by simp [hp]
  rw [List.map_cons, ← congrArg (List.map Byte.toWord) hbs, List.map_map]
  rfl

/-- A write transaction (R108, R109). -/
theorem busw_frames {s : State} (hv : s.cfg.Valid) (ta bo : Word) {tn : Word} (hbuf : tn.toNat ≤ s.cfg.bufSize)
    (hfit : bo.toNat + tn.toNat < 2 ^ 32) :
    Frames [.write .bytecnt (BitVec.ofNat 32 (tn.toNat + s.cfg.addrBytes - 1)), .write .startxfr Config.startWrite]
      ((wireBytes s ta bo.toNat tn.toNat).map Byte.toWord) s (busw ta bo tn s) := by
  obtain ⟨rest, ts, htrace, htimeouts, hrest, hwords⟩ := busw_sends hv ta bo hbuf hfit
  have hnone : controls rest = [] := controls_eq_nil fun e he => by
    rcases hrest e he with ⟨v, rfl⟩ | ⟨v, rfl⟩ <;> rfl
  have hlen : (wireBytes s ta bo.toNat tn.toNat).length = tn.toNat + s.cfg.addrBytes - 1 + 1 := by
    have haddr := hv.1
    rw [wireBytes_length haddr]
    omega
  refine ⟨_, ts, htrace, htimeouts, ?_, fun htx => ?_⟩
  · rw [controls_append, hnone, total_eq hv hbuf]
    rfl
  · rw [dataoutWords_append, hwords, hitPositions_tx htx, total_toNat hv hbuf]
    exact head_positions hlen

/-- A read transaction sends no byte (R111). -/
theorem busr_frames (bo tn : Word) (s : State) :
    Frames [.write .bytecnt (tn - 1#32), .write .startxfr Config.startRead] [] s (busr bo tn s) := by
  have hquiet : Emits Event.Unframed (busrStart (s.setBusr bo tn)) (busr bo tn s) :=
    (busrLoop_emits (fun _ => ⟨rfl, nofun⟩) (fun _ => ⟨rfl, nofun⟩) _ _).trans
      (waitIdle_emits (fun _ => ⟨rfl, nofun⟩) _ _)
  obtain ⟨rest, htrace, hrest, -⟩ := hquiet
  obtain ⟨ts, htimeouts⟩ := (busr_kept bo tn s).timeouts
  rw [busrStart_trace, List.append_assoc] at htrace
  refine ⟨_, ts, htrace, htimeouts, ?_, fun _ => ?_⟩
  · rw [controls_append, controls_eq_nil fun e he => (hrest e he).1]
    rfl
  · rw [dataoutWords_append, dataoutWords_eq_nil fun e he => (hrest e he).2]
    rfl

theorem delay_frames (s : State) : Frames [.delay Config.tWriteCycle] [] s (delay Config.tWriteCycle s) :=
  ⟨_, [], delay_trace s _, (List.append_nil _).symm, rfl, fun _ => rfl⟩

theorem pageSelect_frames (a : Word) (s : State) : Frames (selectEvents s.cfg a) [] s (pageSelect a s) := by
  unfold selectEvents
  split
  · next h1 =>
    rw [pageSelect_one h1]
    exact ⟨_, [], busWrite_trace _ _ _, (List.append_nil _).symm, rfl, fun _ => rfl⟩
  · next h1 =>
    rw [pageSelect_two h1]
    exact .refl s

/-- A page select, then a write transaction. -/
theorem send_frames {s : State} (hv : s.cfg.Valid) (a bo : Word) {tn : Word} (hbuf : tn.toNat ≤ s.cfg.bufSize)
    (hfit : bo.toNat + tn.toNat < 2 ^ 32) :
    Frames (selectEvents s.cfg a ++
        [.write .bytecnt (BitVec.ofNat 32 (tn.toNat + s.cfg.addrBytes - 1)), .write .startxfr Config.startWrite])
      ((wireBytes s a bo.toNat tn.toNat).map Byte.toWord) s (busw a bo tn (pageSelect a s)) := by
  have hcfg := (pageSelect_kept a s).cfg
  have hwrite := busw_frames (s := pageSelect a s) (hcfg.symm ▸ hv) a bo (tn := tn) (hcfg.symm ▸ hbuf) hfit
  rw [wireBytes_congr hcfg (pageSelect_leaves a s).1, hcfg] at hwrite
  exact (pageSelect_frames a s).trans hwrite

/-- What a slice of a read sends: its address (R133). -/
def readWords (c : Config) (p : Slice) : List Word := (addressBytes c p.addr).map Byte.toWord

/-- What a slice of a write sends: its address and its payload (R139). -/
def writeWords (s : State) (p : Slice) : List Word := (wireBytes s p.addr p.offset p.len).map Byte.toWord

/-- `ReadAt`: page select, dummy write, read (R134). -/
theorem readAt_frames {s : State} (hv : s.cfg.Valid) {n : Word} (hpos : 0 < n.toNat) (bo : Nat) :
    Frames (readAtControls s.cfg ⟨s.work.a, bo, n.toNat⟩) (readWords s.cfg ⟨s.work.a, bo, n.toNat⟩) s
      (readAt n s) := by
  have hdummy := send_frames hv s.work.a s.work.bo (tn := 0#32) (Nat.zero_le _) s.work.bo.isLt
  have hread := busr_frames s.work.bo n (busw s.work.a s.work.bo 0#32 (pageSelect s.work.a s))
  have hcount : n - 1#32 = BitVec.ofNat 32 (n.toNat - 1) := by bv_omega
  rw [hcount] at hread
  have hboth := hdummy.trans hread
  simp only [BitVec.toNat_zero, Nat.zero_add, wireBytes, List.range_zero, List.map_nil, List.append_nil,
    List.append_assoc] at hboth
  exact hboth

/-- `WriteAt`: page select, one write transaction, the delay (R139, R140). -/
theorem writeAt_frames {s : State} (hv : s.cfg.Valid) {n : Word} (hbuf : n.toNat ≤ s.cfg.bufSize)
    (hfit : s.work.bo.toNat + n.toNat < 2 ^ 32) :
    Frames (writeAtControls s.cfg ⟨s.work.a, s.work.bo.toNat, n.toNat⟩)
      (writeWords s ⟨s.work.a, s.work.bo.toNat, n.toNat⟩) s (writeAt n s) := by
  have hboth := (send_frames hv s.work.a s.work.bo hbuf hfit).trans (delay_frames _)
  rw [List.append_nil, List.append_assoc] at hboth
  exact hboth

/-! ### The transfers -/

/-- A slice has a full block or one byte. -/
theorem sliceLength_pos {z n : Word} (hz : 0 < z.toNat) (hn : n = z ∨ n = 1#32) : 0 < n.toNat := by
  rcases hn with rfl | rfl
  · exact hz
  · decide

/-- The slices' framing and bytes are the transfer's, where each slice keeps what its framing needs. -/
theorem frames_carries {z : Word} {act : Word → State → State} {total : Nat} {keeps : State → Prop}
    {c : Slice → List Event} {w : Slice → List Word} (s : State)
    (hwork : ∀ t x, keeps t → keeps (t.withWork x)) (hkeeps : ∀ n t, keeps t → keeps (act n t))
    (hact : ∀ n t, (n = z ∨ n = 1#32) → t.work.bo.toNat + n.toNat ≤ total → keeps t →
      Frames (c ⟨t.work.a, t.work.bo.toNat, n.toNat⟩) (w ⟨t.work.a, t.work.bo.toNat, n.toNat⟩) t (act n t)) :
    CarriesSlices z act total (fun _ ps t => keeps t ∧ Frames (ps.flatMap c) (ps.flatMap w) s t) := by
  refine ⟨fun _ _ t x _ h => ⟨hwork t x h.1, h.2⟩, ?_⟩
  rintro _ ps n t hn rfl hfit ⟨hk, h⟩
  refine ⟨hkeeps n t hk, ?_⟩
  simp only [List.flatMap_append, List.flatMap_singleton]
  exact h.trans (hact n t hn hfit hk)

theorem readFrames_carries {z : Word} (hz : 0 < z.toNat) (total : Nat) {s : State} (hv : s.cfg.Valid) :
    CarriesSlices z readAt total (fun _ ps t => t.cfg = s.cfg ∧
      Frames (ps.flatMap (readAtControls s.cfg)) (ps.flatMap (readWords s.cfg)) s t) := by
  refine frames_carries (keeps := fun t => t.cfg = s.cfg) s (fun _ _ h => h)
    (fun n t h => (readAt_kept n t).cfg.trans h) fun n t hn _ hc => ?_
  exact hc ▸ readAt_frames (hc.symm ▸ hv) (sliceLength_pos hz hn) _

/-- EERD (R134, R136). -/
theorem eerd_frames {s : State} (hv : s.cfg.Valid) :
    Frames ((slices 16 s.work.addr s.work.len.toNat).flatMap (readAtControls s.cfg))
      ((slices 16 s.work.addr s.work.len.toNat).flatMap (readWords s.cfg)) s (eerd s) :=
  (eerd_carries (readFrames_carries (by decide) _ hv) rfl ⟨rfl, .refl s⟩).2

/-- EERD1 (R137). -/
theorem eerd1_frames {s : State} (hv : s.cfg.Valid) :
    Frames ((byteSlices s.work.addr s.work.len.toNat).flatMap (readAtControls s.cfg))
      ((byteSlices s.work.addr s.work.len.toNat).flatMap (readWords s.cfg)) s (eerd1 s) :=
  (eerd1_carries (z := 1#32) (readFrames_carries (by decide) _ hv) rfl ⟨rfl, .refl s⟩).2

/-- EEWR (R139, R141): its slices are those of BUF as the command found it. -/
theorem eewr_frames {s : State} (hv : s.cfg.Valid) (hbuf : s.work.len.toNat ≤ s.cfg.bufSize) :
    Frames ((slices 8 s.work.addr s.work.len.toNat).flatMap (writeAtControls s.cfg))
      ((slices 8 s.work.addr s.work.len.toNat).flatMap (writeWords s)) s (eewr s) := by
  refine (eewr_carries (frames_carries (keeps := fun t => t.cfg = s.cfg ∧ t.buf = s.buf) s (fun _ _ h => h)
    (fun n t h => ⟨(writeAt_kept n t).cfg.trans h.1, (writeAt_buf n t).trans h.2⟩) ?_) rfl ⟨⟨rfl, rfl⟩, .refl s⟩).2
  rintro n t - hfit ⟨hc, hb⟩
  have hlen := s.work.len.isLt
  have hslice := writeAt_frames (s := t) (n := n) (hc.symm ▸ hv) (by rw [hc]; omega) (by omega)
  rw [writeWords, wireBytes_congr hc hb, hc] at hslice
  exact hslice

/-- Settles O28, by `eerd_frames`. -/
theorem eerdDecomposes : Obligations.EerdDecomposes := by
  intro s a n h
  obtain ⟨evs, ts, hframes⟩ := eerd_frames (s := latch (.eerd a n) s) h.1
  exact ⟨_, evs, ts, exec_accepts h, hframes⟩

/-- Settles O29, by `eerd1_frames`. -/
theorem eerd1Decomposes : Obligations.Eerd1Decomposes := by
  intro s a n h
  obtain ⟨evs, ts, hframes⟩ := eerd1_frames (s := latch (.eerd1 a n) s) h.1
  exact ⟨_, evs, ts, exec_accepts h, hframes⟩

/-- Settles O30, by `eewr_frames`. -/
theorem eewrDecomposes : Obligations.EewrDecomposes := by
  intro s a n h
  obtain ⟨hv, -, hwf⟩ := id h
  obtain ⟨evs, ts, hframes⟩ := eewr_frames (s := latch (.eewr a n) s) hv ((fitsBuf_iff s.cfg n).1 hwf)
  exact ⟨_, evs, ts, exec_accepts h, hframes⟩

end Sys2Proof.Machine
end

section
/-! PROOFS. How many events the MAPPER's commands emit (R116, R144): the bounds for every ENV, and the fewest exactly
under ENV_IDEAL, where every poll succeeds at its first sample (R66). -/

namespace Sys2Proof.Machine

/-! ### The counts of a transfer, from those of its slices -/

/-- The sum of the slices' counts, each given by the slice's length. -/
def countSlices (f : Nat → Nat) (ps : List Slice) : Nat := (ps.map fun p => f p.len).sum

theorem countSlices_append (f : Nat → Nat) (ps : List Slice) (p : Slice) :
    countSlices f (ps ++ [p]) = countSlices f ps + f p.len := by
  simp [countSlices]

theorem countSlices_slices (f : Nat → Nat) (z : Nat) (a : Word) (n : Nat) :
    countSlices f (slices z a n) = n / z * f z + n % z * f 1 := by
  simp [countSlices, slices, Function.comp_def]

theorem countSlices_byteSlices (f : Nat → Nat) (a : Word) (n : Nat) :
    countSlices f (byteSlices a n) = n * f 1 := by
  simp [countSlices, byteSlices, Function.comp_def]

/-- The events of a page select (R131). -/
def selectCount (c : Config) : Nat := if c.addrBytes = 1 then 1 else 0

/-- The fewest events of a `ReadAt` of `n` bytes: every poll succeeds at its first sample (R144). -/
def fewestRead (c : Config) (n : Nat) : Nat :=
  selectCount c + (3 + 2 * (c.addrBytes - 1) + 1) + (2 + 2 * n + 1)

/-- The most events of a `ReadAt` of `n` bytes. -/
def mostRead (c : Config) (n : Nat) : Nat :=
  selectCount c + (3 + (c.addrBytes - 1) * (c.maxBusyLoop + 1) + c.busyLoop) +
    (2 + n * (c.maxBusyLoop + 1) + c.busyLoop)

theorem mostRead_one (c : Config) :
    mostRead c 1 = selectCount c + (3 + (c.addrBytes - 1) * (c.maxBusyLoop + 1) + c.busyLoop) +
      (2 + (c.maxBusyLoop + 1) + c.busyLoop) := by
  rw [mostRead, Nat.one_mul]

/-- The fewest events of a `WriteAt` of `n` bytes (R144). -/
def fewestWrite (c : Config) (n : Nat) : Nat := selectCount c + 3 + 2 * (n + c.addrBytes - 1) + 1 + 1

theorem fewestWrite_one (c : Config) : fewestWrite c 1 = selectCount c + 3 + 2 * c.addrBytes + 1 + 1 := by
  rw [fewestWrite, Nat.add_sub_cancel_left]

/-- The most events of a `WriteAt` of `n` bytes. -/
def mostWrite (c : Config) (n : Nat) : Nat :=
  selectCount c + 3 + (n + c.addrBytes - 1) * (c.maxBusyLoop + 1) + c.busyLoop + 1

theorem mostWrite_one (c : Config) :
    mostWrite c 1 = selectCount c + 3 + c.addrBytes * (c.maxBusyLoop + 1) + c.busyLoop + 1 := by
  rw [mostWrite, Nat.add_sub_cancel_left]

/-! ### Bounds for every ENV (R116, R144) -/

theorem Counts.refl (s : State) : Counts 0 0 s s := ⟨rfl, [], (List.append_nil _).symm, Nat.le_refl 0, Nat.le_refl 0⟩

/-- The bounds are those of the events there are. -/
theorem Counts.length {lo hi : Nat} {s t : State} (h : Counts lo hi s t) {evs : List Event}
    (htrace : t.trace = s.trace ++ evs) : lo ≤ evs.length ∧ evs.length ≤ hi := by
  obtain ⟨-, es, hes, hlen⟩ := h
  rwa [List.append_cancel_left (hes.symm.trans htrace)] at hlen

theorem delay_counts (n : Nat) (s : State) : Counts 1 1 s (delay n s) :=
  ⟨rfl, _, delay_trace s n, Nat.le_refl 1, Nat.le_refl 1⟩

theorem pageSelect_counts (a : Word) (s : State) :
    Counts (selectCount s.cfg) (selectCount s.cfg) s (pageSelect a s) := by
  unfold selectCount
  split
  · next h1 =>
    rw [pageSelect_one h1]
    exact ⟨rfl, _, busWrite_trace _ _ _, Nat.le_refl 1, Nat.le_refl 1⟩
  · next h1 =>
    rw [pageSelect_two h1]
    exact .refl s

/-- A page select, then a write transaction. -/
theorem send_counts {s : State} (hv : s.cfg.Valid) (a bo : Word) {tn : Word} (hbuf : tn.toNat ≤ s.cfg.bufSize) :
    Counts (selectCount s.cfg + (3 + 2 * (tn.toNat + s.cfg.addrBytes - 1) + 1))
      (selectCount s.cfg +
        (3 + (tn.toNat + s.cfg.addrBytes - 1) * (s.cfg.maxBusyLoop + 1) + s.cfg.busyLoop)) s
      (busw a bo tn (pageSelect a s)) := by
  have hselect := pageSelect_counts a s
  have hcfg := hselect.1
  have hwrite := busw_counts (s := pageSelect a s) (hcfg.symm ▸ dividerOk_of_valid hv) a bo tn
    (hcfg.symm ▸ total_toNat hv hbuf)
  rw [hcfg, Nat.mul_comm _ 2] at hwrite
  exact hselect.trans hwrite

theorem readAt_counts {s : State} (hv : s.cfg.Valid) (n : Word) :
    Counts (fewestRead s.cfg n.toNat) (mostRead s.cfg n.toNat) s (readAt n s) := by
  have hdummy := send_counts hv s.work.a s.work.bo (tn := 0#32) (Nat.zero_le _)
  have hread := busr_counts (hdummy.1.symm ▸ dividerOk_of_valid hv) s.work.bo n
  rw [hdummy.1, Nat.mul_comm _ 2] at hread
  simp only [BitVec.toNat_zero, Nat.zero_add] at hdummy
  exact hdummy.trans hread

theorem writeAt_counts {s : State} (hv : s.cfg.Valid) {n : Word} (hbuf : n.toNat ≤ s.cfg.bufSize) :
    Counts (fewestWrite s.cfg n.toNat) (mostWrite s.cfg n.toNat) s (writeAt n s) := by
  have hboth := (send_counts hv s.work.a s.work.bo hbuf).trans (delay_counts Config.tWriteCycle _)
  simp only [← Nat.add_assoc] at hboth
  exact hboth

/-- What each slice counts, the transfer counts. -/
theorem counts_carries {z : Word} {act : Word → State → State} {total : Nat} {s : State} {lo hi : Nat → Nat}
    (hact : ∀ n t, n.toNat ≤ total → t.cfg = s.cfg → Counts (lo n.toNat) (hi n.toNat) t (act n t)) :
    CarriesSlices z act total (fun _ ps t => Counts (countSlices lo ps) (countSlices hi ps) s t) := by
  refine ⟨fun _ _ _ _ _ h => h, fun m ps n t _ _ hfit h => ?_⟩
  rw [countSlices_append, countSlices_append]
  exact h.trans (hact n t (by omega) h.1)

theorem readCounts_carries (z : Word) (total : Nat) {s : State} (hv : s.cfg.Valid) :
    CarriesSlices z readAt total
      (fun _ ps t => Counts (countSlices (fewestRead s.cfg) ps) (countSlices (mostRead s.cfg) ps) s t) :=
  counts_carries fun n _ _ hc => hc ▸ readAt_counts (hc.symm ▸ hv) n

theorem eerd_counts {s : State} (hv : s.cfg.Valid) :
    Counts (countSlices (fewestRead s.cfg) (slices 16 s.work.addr s.work.len.toNat))
      (countSlices (mostRead s.cfg) (slices 16 s.work.addr s.work.len.toNat)) s (eerd s) :=
  eerd_carries (readCounts_carries _ _ hv) rfl (.refl s)

theorem eerd1_counts {s : State} (hv : s.cfg.Valid) :
    Counts (countSlices (fewestRead s.cfg) (byteSlices s.work.addr s.work.len.toNat))
      (countSlices (mostRead s.cfg) (byteSlices s.work.addr s.work.len.toNat)) s (eerd1 s) :=
  eerd1_carries (z := 1#32) (readCounts_carries _ _ hv) rfl (.refl s)

theorem eewr_counts {s : State} (hv : s.cfg.Valid) (hbuf : s.work.len.toNat ≤ s.cfg.bufSize) :
    Counts (countSlices (fewestWrite s.cfg) (slices 8 s.work.addr s.work.len.toNat))
      (countSlices (mostWrite s.cfg) (slices 8 s.work.addr s.work.len.toNat)) s (eewr s) :=
  eewr_carries (counts_carries fun n t hn hc =>
    hc ▸ writeAt_counts (hc.symm ▸ hv) (by rw [hc]; omega)) rfl (.refl s)

/-- Settles O31: the counts of the slices, summed over blocks and tail. -/
theorem mapperEventCountsAreBounded : Obligations.MapperEventCountsAreBounded := by
  rintro i s a n page addr sample last rfl rfl rfl rfl h
  obtain ⟨hv, -, hwf⟩ := id h
  obtain ⟨evs, htrace⟩ := (commandBody_grown i (latch i s)).trace
  refine ⟨_, evs, exec_accepts h, htrace, ?_, ?_, ?_⟩
  · rintro rfl
    have hlen := (eerd_counts (s := latch (.eerd a n) s) hv).length htrace
    rw [countSlices_slices, countSlices_slices, mostRead_one] at hlen
    exact hlen
  · rintro rfl
    have hlen := (eerd1_counts (s := latch (.eerd1 a n) s) hv).length htrace
    rw [countSlices_byteSlices, countSlices_byteSlices, mostRead_one] at hlen
    exact hlen
  · rintro rfl
    have hlen := (eewr_counts (s := latch (.eewr a n) s) hv ((fitsBuf_iff s.cfg n).1 hwf)).length htrace
    rw [countSlices_slices, countSlices_slices, fewestWrite_one, mostWrite_one] at hlen
    exact hlen

end Sys2Proof.Machine
end

section
/-! PROOFS. The MAPPER under ENV_IDEAL (R66, R144): every poll succeeds at its first sample, so a transfer emits the
fewest events and no poll times out. -/

namespace Sys2Proof.Machine

/-- From `s` to `t` exactly `n` events are emitted and no poll times out. -/
def Prompt (n : Nat) (s t : State) : Prop := Counts n n s t ∧ t.timeouts = s.timeouts

theorem Prompt.counts {n : Nat} {s t : State} (h : Prompt n s t) : Counts n n s t := h.1

theorem Prompt.timeouts {n : Nat} {s t : State} (h : Prompt n s t) : t.timeouts = s.timeouts := h.2

theorem Prompt.refl (s : State) : Prompt 0 s s := ⟨.refl s, rfl⟩

theorem Prompt.trans {m n : Nat} {s t u : State} (h : Prompt m s t) (g : Prompt n t u) : Prompt (m + n) s u :=
  ⟨h.counts.trans g.counts, g.timeouts.trans h.timeouts⟩

theorem Prompt.cfg {n : Nat} {s t : State} (h : Prompt n s t) : t.cfg = s.cfg := h.counts.1

theorem Prompt.length {n : Nat} {s t : State} (h : Prompt n s t) {evs : List Event}
    (htrace : t.trace = s.trace ++ evs) : evs.length = n := by
  obtain ⟨hlo, hhi⟩ := h.counts.length htrace
  exact Nat.le_antisymm hhi hlo

theorem prompt_of_trace {s t : State} {evs : List Event} {n : Nat} (htrace : t.trace = s.trace ++ evs)
    (hlen : evs.length = n) (hcfg : t.cfg = s.cfg) (htimeouts : t.timeouts = s.timeouts) : Prompt n s t :=
  ⟨⟨hcfg, evs, htrace, hlen.ge, hlen.le⟩, htimeouts⟩

theorem busRead_prompt (r : InReg) (s : State) : Prompt 1 s (busRead r s) :=
  prompt_of_trace (busRead_trace s r) rfl rfl rfl

theorem busWrite_prompt (r : OutReg) (v : Word) (s : State) : Prompt 1 s (busWrite r v s) :=
  prompt_of_trace (busWrite_trace s r v) rfl rfl rfl

theorem delay_prompt (n : Nat) (s : State) : Prompt 1 s (delay n s) := ⟨delay_counts n s, rfl⟩

/-- ENV is ENV_IDEAL with no transaction in flight. -/
def Resting (s : State) : Prop := ∃ e, AtRest s e

/-! ### The polls of a transaction -/

theorem waitIdle_prompt {s : State} (hd : DividerOk s.cfg) (h : Resting s) (m : Timeout) :
    Prompt 1 s (waitIdle m s) ∧ Resting (waitIdle m s) := by
  obtain ⟨e, he⟩ := h
  obtain ⟨hfirst, hrest⟩ := he.waitIdle hd m
  refine ⟨?_, e, hrest⟩
  rw [hfirst]
  exact busRead_prompt .status (s.setJ 0#32)

/-- ENV_IDEAL inside a write transaction with `n` bytes still to come. -/
structure Sending (n : Nat) (e : Ideal) : Prop where
  waits : 0 < n → e.mode = .tx ∧ e.left = n
  done : n = 0 → e.mode = .idle

theorem Sending.next {n : Nat} {e : Ideal} (hmode : e.mode = .tx) (hleft : e.left = n + 1) (c : Config) (b : Byte) :
    Sending n (e.accept c b) := by
  refine ⟨accept_waits c b hmode hleft, ?_⟩
  rintro rfl
  rw [Ideal.accept_last c b hleft]
  exact Ideal.finish_mode c _

theorem buswPosition_prompt {s : State} (hd : DividerOk s.cfg)
    (h : statusTxEmpty (s.env.answer s.cfg .status).1 = true) : Prompt 2 s (buswPosition s) := by
  rw [buswPosition_first hd h]
  exact (busRead_prompt .status (s.setJ 0#32)).trans (busWrite_prompt .dataout (nextByte s) _)

theorem busrPosition_prompt {s : State} (hd : DividerOk s.cfg)
    (h : statusDataReady (s.env.answer s.cfg .status).1 = true) : Prompt 2 s (busrPosition s) := by
  rw [busrPosition_first hd h]
  exact (busRead_prompt .status (s.setJ 0#32)).trans (busRead_prompt .datain _)

/-- BUSW's byte loop hands ENV_IDEAL every byte at once. -/
theorem buswLoop_prompt (n : Nat) {s : State} {e : Ideal} (hd : DividerOk s.cfg) (henv : s.env = .ideal e)
    (he : Sending n e) : Prompt (2 * n) s (buswLoop n s) ∧ Resting (buswLoop n s) := by
  induction n generalizing s e with
  | zero => exact ⟨.refl s, e, henv, he.done rfl⟩
  | succ n ih =>
    obtain ⟨hmode, hleft⟩ := he.waits n.succ_pos
    have hfirst := buswPosition_prompt hd (by rw [henv]; exact Ideal.statusTxEmpty_status hmode)
    obtain ⟨hloop, hrest⟩ := ih (hfirst.cfg.symm ▸ hd) (buswPosition_ideal hd henv hmode) (.next hmode hleft _ _)
    rw [Nat.mul_succ, Nat.add_comm]
    exact ⟨hfirst.trans hloop, hrest⟩

/-- BUSR's byte loop finds every byte ready. -/
theorem busrLoop_prompt (n : Nat) {s : State} {e : Ideal} (hd : DividerOk s.cfg) (henv : s.env = .ideal e)
    (he : Receiving n e) : Prompt (2 * n) s (busrLoop n s) ∧ Resting (busrLoop n s) := by
  induction n generalizing s e with
  | zero => exact ⟨.refl s, e, henv, he.mode⟩
  | succ n ih =>
    have hready : statusDataReady (s.env.answer s.cfg .status).1 = true := by
      rw [henv]
      exact Ideal.statusDataReady_status he.mode (he.left ▸ n.succ_pos)
    have hfirst := busrPosition_prompt hd hready
    obtain ⟨hloop, hrest⟩ := ih (hfirst.cfg.symm ▸ hd) (busrPosition_ideal hd henv he).1 (he.next s.cfg)
    rw [Nat.mul_succ, Nat.add_comm]
    exact ⟨hfirst.trans hloop, hrest⟩

/-! ### Transactions -/

theorem busw_prompt {s : State} (hd : DividerOk s.cfg) (h : Resting s) (ta bo : Word) {tn : Word} {n : Nat}
    (hn : (tn + s.cfg.addrWord - 1#32).toNat = n) :
    Prompt (3 + 2 * n + 1) s (busw ta bo tn s) ∧ Resting (busw ta bo tn s) := by
  obtain ⟨e, he⟩ := h
  have hstart := buswStart_ideal (s := s.setBusw ta bo tn) ⟨he.env, he.mode⟩
  have hset : Prompt 3 s (buswStart (s.setBusw ta bo tn)) :=
    prompt_of_trace (buswStart_trace _) rfl (buswStart_leaves (s.setBusw ta bo tn)).1 (buswStart_timeouts _)
  simp only [setBusw_work] at hstart
  obtain ⟨hloop, hrest⟩ := buswLoop_prompt n (hset.cfg.symm ▸ hd) hstart (.next rfl (congrArg (· + 1) hn) _ _)
  have hsent := hset.trans hloop
  obtain ⟨hwait, hdone⟩ := waitIdle_prompt (hsent.cfg.symm ▸ hd) hrest .busyW
  rw [busw_eq, hn]
  exact ⟨hsent.trans hwait, hdone⟩

/-- ENV_IDEAL at the start of a read of `n` bytes. -/
def Ideal.reading (e : Ideal) (n : Word) : Ideal :=
  { e with cnt := n - 1#32, mode := .rx, left := (n - 1#32).toNat + 1 }

theorem busrStart_ideal {s : State} {e : Ideal} (h : AtRest s e) :
    (busrStart s).env = .ideal (e.reading s.work.tn) := by
  have hread : Config.startRead ≠ Config.startWrite := by decide
  simp [busrStart, h.env, Env.observe, Ideal.observe, Ideal.reading, hread]

theorem reading_receiving (e : Ideal) {n : Word} (hpos : 0 < n.toNat) : Receiving n.toNat (e.reading n) := by
  refine ⟨?_, (if_neg hpos.ne').symm⟩
  show (n - 1#32).toNat + 1 = n.toNat
  bv_omega

theorem busr_prompt {s : State} (hd : DividerOk s.cfg) (h : Resting s) (bo : Word) {tn : Word}
    (hpos : 0 < tn.toNat) :
    Prompt (2 + 2 * tn.toNat + 1) s (busr bo tn s) ∧ Resting (busr bo tn s) := by
  obtain ⟨e, he⟩ := h
  have hstart := busrStart_ideal (s := s.setBusr bo tn) ⟨he.env, he.mode⟩
  have hset : Prompt 2 s (busrStart (s.setBusr bo tn)) :=
    prompt_of_trace (busrStart_trace _) rfl (busrStart_leaves (s.setBusr bo tn)).1 (busrStart_timeouts _)
  obtain ⟨hloop, hrest⟩ := busrLoop_prompt tn.toNat (hset.cfg.symm ▸ hd) hstart (reading_receiving e hpos)
  have hreceived := hset.trans hloop
  obtain ⟨hwait, hdone⟩ := waitIdle_prompt (hreceived.cfg.symm ▸ hd) hrest .busyR
  rw [busr_eq]
  exact ⟨hreceived.trans hwait, hdone⟩

theorem pageSelect_prompt {s : State} (h : Resting s) (a : Word) :
    Prompt (selectCount s.cfg) s (pageSelect a s) ∧ Resting (pageSelect a s) := by
  obtain ⟨e, he⟩ := h
  obtain ⟨e1, -, -, hrest⟩ := pageSelect_ideal he a
  refine ⟨⟨pageSelect_counts a s, ?_⟩, e1, hrest⟩
  unfold pageSelect
  split <;> rfl

/-- A page select, then a write transaction. -/
theorem send_prompt {s : State} (hv : s.cfg.Valid) (h : Resting s) (a bo : Word) {tn : Word}
    (hbuf : tn.toNat ≤ s.cfg.bufSize) :
    Prompt (selectCount s.cfg + (3 + 2 * (tn.toNat + s.cfg.addrBytes - 1) + 1)) s (busw a bo tn (pageSelect a s)) ∧
      Resting (busw a bo tn (pageSelect a s)) := by
  obtain ⟨hselect, hrest⟩ := pageSelect_prompt h a
  have hcfg := hselect.cfg
  obtain ⟨hwrite, hdone⟩ := busw_prompt (hcfg.symm ▸ dividerOk_of_valid hv) hrest a bo (tn := tn)
    (hcfg.symm ▸ total_toNat hv hbuf)
  rw [hcfg] at hwrite
  exact ⟨hselect.trans hwrite, hdone⟩

theorem readAt_prompt {s : State} (hv : s.cfg.Valid) (h : Resting s) {n : Word} (hpos : 0 < n.toNat) :
    Prompt (fewestRead s.cfg n.toNat) s (readAt n s) ∧ Resting (readAt n s) := by
  obtain ⟨hdummy, hrest⟩ := send_prompt hv h s.work.a s.work.bo (tn := 0#32) (Nat.zero_le _)
  obtain ⟨hread, hdone⟩ := busr_prompt (hdummy.cfg.symm ▸ dividerOk_of_valid hv) hrest s.work.bo hpos
  simp only [BitVec.toNat_zero, Nat.zero_add] at hdummy
  exact ⟨hdummy.trans hread, hdone⟩

theorem writeAt_prompt {s : State} (hv : s.cfg.Valid) (h : Resting s) {n : Word} (hbuf : n.toNat ≤ s.cfg.bufSize) :
    Prompt (fewestWrite s.cfg n.toNat) s (writeAt n s) ∧ Resting (writeAt n s) := by
  obtain ⟨hsend, e, hrest⟩ := send_prompt hv h s.work.a s.work.bo hbuf
  have hboth := hsend.trans (delay_prompt Config.tWriteCycle _)
  simp only [← Nat.add_assoc] at hboth
  exact ⟨hboth, e, hrest.delay _⟩

/-! ### Transfers -/

/-- Prompt slices make a prompt transfer. -/
theorem prompt_carries {z : Word} {act : Word → State → State} {total : Nat} {s : State} {count : Nat → Nat}
    (hact : ∀ n t, (n = z ∨ n = 1#32) → n.toNat ≤ total → t.cfg = s.cfg → Resting t →
      Prompt (count n.toNat) t (act n t) ∧ Resting (act n t)) :
    CarriesSlices z act total (fun _ ps t => Prompt (countSlices count ps) s t ∧ Resting t) := by
  refine ⟨fun _ _ t w _ h => ?_, fun m ps n t hn _ hfit h => ?_⟩
  · obtain ⟨hprompt, e, hrest⟩ := h
    exact ⟨hprompt, e, hrest.withWork w⟩
  · obtain ⟨hprompt, hrest⟩ := h
    obtain ⟨hslice, hdone⟩ := hact n t hn (by omega) hprompt.cfg hrest
    rw [countSlices_append]
    exact ⟨hprompt.trans hslice, hdone⟩

theorem readPrompt_carries {z : Word} (hz : 0 < z.toNat) (total : Nat) {s : State} (hv : s.cfg.Valid) :
    CarriesSlices z readAt total (fun _ ps t => Prompt (countSlices (fewestRead s.cfg) ps) s t ∧ Resting t) := by
  refine prompt_carries fun n t hn _ hc hrest => ?_
  exact hc ▸ readAt_prompt (hc.symm ▸ hv) hrest (sliceLength_pos hz hn)

section Mapper

variable {s : State} (hv : s.cfg.Valid) (h : Resting s)

include hv h

theorem eerd_prompt : Prompt (countSlices (fewestRead s.cfg) (slices 16 s.work.addr s.work.len.toNat)) s (eerd s) :=
  (eerd_carries (readPrompt_carries (by decide) _ hv) rfl ⟨.refl s, h⟩).1

theorem eerd1_prompt :
    Prompt (countSlices (fewestRead s.cfg) (byteSlices s.work.addr s.work.len.toNat)) s (eerd1 s) :=
  (eerd1_carries (z := 1#32) (readPrompt_carries (by decide) _ hv) rfl ⟨.refl s, h⟩).1

theorem eewr_prompt (hbuf : s.work.len.toNat ≤ s.cfg.bufSize) :
    Prompt (countSlices (fewestWrite s.cfg) (slices 8 s.work.addr s.work.len.toNat)) s (eewr s) :=
  (eewr_carries (prompt_carries fun n t _ hn hc hrest =>
    hc ▸ writeAt_prompt (hc.symm ▸ hv) hrest (by rw [hc]; omega)) rfl ⟨.refl s, h⟩).1

end Mapper

/-- The counts of R144. -/
theorem fewestRead_eq {c : Config} (hv : c.Valid) (n : Nat) :
    fewestRead c n = if c.addrBytes = 1 then 2 * n + 8 else 2 * n + 9 := by
  obtain ⟨ha | ha, -⟩ := hv <;> simp [fewestRead, selectCount, ha] <;> omega

theorem fewestWrite_eq {c : Config} (hv : c.Valid) (n : Nat) :
    fewestWrite c n = if c.addrBytes = 1 then 2 * n + 6 else 2 * n + 7 := by
  obtain ⟨ha | ha, -⟩ := hv <;> simp [fewestWrite, selectCount, ha] <;> omega

/-- Settles O54: each clause by its command's `Prompt`. -/
theorem idealEnvEventCounts : Obligations.IdealEnvEventCounts := by
  intro i s e a n henv hmode h
  obtain ⟨hv, -, hwf⟩ := id h
  obtain ⟨evs, htrace⟩ := (commandBody_grown i (latch i s)).trace
  have hrest : Resting (latch i s) := ⟨e, henv, hmode⟩
  refine ⟨_, evs, exec_accepts h, htrace, ?_, ?_, ?_⟩
  · rintro rfl
    have hprompt := eerd_prompt (s := latch (.eerd a n) s) hv hrest
    refine ⟨hprompt.timeouts, (hprompt.length htrace).trans ?_⟩
    rw [countSlices_slices, latch_cfg, fewestRead_eq hv, fewestRead_eq hv]
    simp only [latch_work, Instr.length]
    split <;> omega
  · rintro rfl
    have hprompt := eerd1_prompt (s := latch (.eerd1 a n) s) hv hrest
    refine ⟨hprompt.timeouts, (hprompt.length htrace).trans ?_⟩
    rw [countSlices_byteSlices, latch_cfg, fewestRead_eq hv]
    simp only [latch_work, Instr.length]
    split <;> omega
  · rintro rfl
    have hprompt := eewr_prompt (s := latch (.eewr a n) s) hv hrest ((fitsBuf_iff s.cfg n).1 hwf)
    refine ⟨hprompt.timeouts, (hprompt.length htrace).trans ?_⟩
    rw [countSlices_slices, latch_cfg, fewestWrite_eq hv, fewestWrite_eq hv]
    simp only [latch_work, Instr.length]
    split <;> omega

end Sys2Proof.Machine
end

section
/-! PROOFS. No operation reads the latched opcode (R22, R71): each commutes with writing another one over it. -/

namespace Sys2Proof.Machine

/-- The state with `o` as the latched opcode. -/
def State.withOp (s : State) (o : BitVec 8) : State := s.withWork { s.work with op := o }

/-- The opcode written back over another one. -/
theorem withWork_op_withOp {s : State} {o : BitVec 8} (h : s.work.op = o) (p : BitVec 8) :
    (s.withOp p).withWork { (s.withOp p).work with op := o } = s := by
  subst h
  rfl

section Opcode

variable (o : BitVec 8)

/-! The ENGINE (R102 to R111). -/

theorem pollLoop_withOp (test : Word → Bool) (n : Nat) (s : State) :
    pollLoop test n (s.withOp o) = ((pollLoop test n s).1, (pollLoop test n s).2.withOp o) := by
  induction n generalizing s with
  | zero => rfl
  | succ n ih =>
    have hread : busRead .status (s.withOp o) = (busRead .status s).withOp o := rfl
    rw [pollLoop, pollLoop, hread]
    by_cases h : test (busRead .status s).work.v = true
    · rw [if_pos h]
      exact if_pos h
    · rw [if_neg h]
      exact (if_neg h).trans (ih ((busRead .status s).setJ ((busRead .status s).work.j + 1#32)))

theorem poll_withOp (test : Word → Bool) (n : Nat) (s : State) :
    poll test n (s.withOp o) = ((poll test n s).1, (poll test n s).2.withOp o) :=
  pollLoop_withOp o test n (s.setJ 0#32)

theorem waitIdle_withOp (m : Timeout) (s : State) : waitIdle m (s.withOp o) = (waitIdle m s).withOp o := by
  have hpoll := poll_withOp o statusIdle s.cfg.busyLoop s
  rw [waitIdle, waitIdle, State.withOp, State.withWork_cfg, ← State.withOp, hpoll]
  split <;> rfl

theorem buswPosition_withOp (s : State) : buswPosition (s.withOp o) = (buswPosition s).withOp o := by
  have hpoll : pollSet statusTxEmpty (s.withOp o) = _ := poll_withOp o statusTxEmpty s.cfg.maxBusyLoop s
  rw [buswPosition, buswPosition, hpoll, pollSet]
  split <;> rfl

theorem busrPosition_withOp (s : State) : busrPosition (s.withOp o) = (busrPosition s).withOp o := by
  have hpoll : pollSet statusDataReady (s.withOp o) = _ := poll_withOp o statusDataReady s.cfg.maxBusyLoop s
  rw [busrPosition, busrPosition, hpoll, pollSet]
  split <;> rfl

theorem buswLoop_withOp (n : Nat) (s : State) : buswLoop n (s.withOp o) = (buswLoop n s).withOp o := by
  induction n generalizing s with
  | zero => rfl
  | succ n ih => rw [buswLoop, buswLoop, buswPosition_withOp, ih]

theorem busrLoop_withOp (n : Nat) (s : State) : busrLoop n (s.withOp o) = (busrLoop n s).withOp o := by
  induction n generalizing s with
  | zero => rfl
  | succ n ih => rw [busrLoop, busrLoop, busrPosition_withOp, ih]

theorem busw_withOp (ta bo tn : Word) (s : State) : busw ta bo tn (s.withOp o) = (busw ta bo tn s).withOp o :=
  (congrArg (waitIdle .busyW) (buswLoop_withOp o _ (buswStart (s.setBusw ta bo tn)))).trans (waitIdle_withOp o _ _)

theorem busr_withOp (bo tn : Word) (s : State) : busr bo tn (s.withOp o) = (busr bo tn s).withOp o :=
  (congrArg (waitIdle .busyR) (busrLoop_withOp o _ (busrStart (s.setBusr bo tn)))).trans (waitIdle_withOp o _ _)

theorem busInit_withOp (s : State) : busInit (s.withOp o) = (busInit s).withOp o := rfl

/-! The MAPPER (R131 to R139). -/

theorem pageSelect_withOp (a : Word) (s : State) : pageSelect a (s.withOp o) = (pageSelect a s).withOp o := by
  by_cases h1 : s.cfg.addrBytes = 1
  · rw [pageSelect_one h1, pageSelect_one (s := s.withOp o) h1]
    rfl
  · rw [pageSelect_two h1, pageSelect_two (s := s.withOp o) h1]

theorem readAt_withOp (n : Word) (s : State) : readAt n (s.withOp o) = (readAt n s).withOp o := by
  rw [readAt, pageSelect_withOp, busw_withOp, busr_withOp]
  rfl

theorem writeAt_withOp (n : Word) (s : State) : writeAt n (s.withOp o) = (writeAt n s).withOp o := by
  rw [writeAt, pageSelect_withOp, busw_withOp]
  rfl

section Loops

variable {act : State → State} (hact : ∀ s, act (s.withOp o) = (act s).withOp o)

include hact

theorem blockLoop_withOp (z : Word) (n : Nat) (s : State) :
    blockLoop z act n (s.withOp o) = (blockLoop z act n s).withOp o := by
  induction n generalizing s with
  | zero => rfl
  | succ n ih =>
    have hslice : act (sliceOfBlock z (s.withOp o)) = (act (sliceOfBlock z s)).withOp o := hact (sliceOfBlock z s)
    rw [blockLoop, blockLoop, hslice]
    exact ih ((act (sliceOfBlock z s)).setB ((act (sliceOfBlock z s)).work.b + 1#32))

theorem tailLoop_withOp (z : Word) (n : Nat) (s : State) :
    tailLoop z act n (s.withOp o) = (tailLoop z act n s).withOp o := by
  induction n generalizing s with
  | zero => rfl
  | succ n ih =>
    have hslice : act (sliceOfTail z (s.withOp o)) = (act (sliceOfTail z s)).withOp o := hact (sliceOfTail z s)
    rw [tailLoop, tailLoop, hslice]
    exact ih ((act (sliceOfTail z s)).setK ((act (sliceOfTail z s)).work.k + 1#32))

end Loops

theorem slicedTransfer_withOp (z : Word) {act : Word → State → State}
    (hact : ∀ n s, act n (s.withOp o) = (act n s).withOp o) (s : State) :
    slicedTransfer z act (s.withOp o) = (slicedTransfer z act s).withOp o := by
  have hblocks : afterBlocks z act (s.withOp o) = (afterBlocks z act s).withOp o :=
    blockLoop_withOp o (hact z) z _ ((splitLength z s).setB 0#32)
  rw [slicedTransfer, hblocks, slicedTransfer]
  exact tailLoop_withOp o (hact 1#32) z _ ((afterBlocks z act s).setK 0#32)

theorem eerd_withOp (s : State) : eerd (s.withOp o) = (eerd s).withOp o := by
  rw [eerd_eq, eerd_eq, slicedTransfer_withOp o _ (readAt_withOp o)]

theorem eewr_withOp (s : State) : eewr (s.withOp o) = (eewr s).withOp o := by
  rw [eewr_eq, eewr_eq, slicedTransfer_withOp o _ (writeAt_withOp o)]

end Opcode

end Sys2Proof.Machine
end

section
/-! PROOFS. The driver-level commands (42_host.md): INIT, DUMP, READ and WRITE as BUS_INIT and the MAPPER's
transfers (R160 to R167). -/

namespace Sys2Proof.Machine

/-! ### DUMP and INIT (R161, R166) -/

/-- Settles O13: the report is the body. -/
theorem dumpOnlyReports : Obligations.DumpOnlyReports := fun _ _ _ h => exec_body h rfl rfl

theorem busInit_trace (s : State) :
    (busInit s).trace = s.trace ++ initEvents s.cfg (s.env.answer s.cfg .rstctrl).1 := by
  obtain ⟨e, h⟩ := busInit_spec s
  rw [h]

theorem busInit_shadow (s : State) : (busInit s).shadow = initShadow s.cfg := by
  obtain ⟨e, h⟩ := busInit_spec s
  rw [h]

theorem busInit_rstctrl (s : State) :
    (busInit s).rstctrl = (s.env.answer s.cfg .rstctrl).1 &&& ~~~s.cfg.rstMask := by
  obtain ⟨e, h⟩ := busInit_spec s
  rw [h]

theorem busInit_buf (s : State) : (busInit s).buf = s.buf := by
  obtain ⟨e, h⟩ := busInit_spec s
  rw [h]

theorem busInit_run (s : State) : (busInit s).run = s.run := by
  obtain ⟨e, h⟩ := busInit_spec s
  rw [h]

/-- INIT is accepted by every `IDLE` SEQ with parameters in range. -/
theorem exec_init {s : State} (hv : s.cfg.Valid) (hidle : s.run = .idle) (a n : Word) :
    exec (.init a n) s = .next (busInit (latch (.init a n) s)) :=
  exec_body ⟨hv, hidle, rfl⟩ rfl (busInit_run _)

/-- BUS_INIT leaves what acceptance looks at besides the operands. -/
theorem accepts_after_busInit {i j : Instr} {s : State} (h : Accepts i s) (hwf : j.wellFormed s.cfg = true) :
    Accepts j (busInit (latch i s)) := by
  obtain ⟨hv, hidle, -⟩ := h
  have hcfg : (busInit (latch i s)).cfg = s.cfg := busInit_cfg _
  exact ⟨hcfg.symm ▸ hv, (busInit_run _).trans hidle, hcfg.symm ▸ hwf⟩

theorem delayTotal_append (es fs : List Event) : delayTotal (es ++ fs) = delayTotal es + delayTotal fs := by
  induction es with
  | nil => exact (Nat.zero_add _).symm
  | cons e es ih =>
    cases e with
    | delay n => exact (congrArg (n + ·) ih).trans (Nat.add_assoc _ _ _).symm
    | write _ _ | read _ _ | report => exact ih

theorem delayTotal_initEvents (c : Config) (v : Word) : delayTotal (initEvents c v) = 500 := rfl

/-- Settles O12: the shadows after BUS_INIT depend on the parameters alone, and clearing the reset bit twice is clearing
it once. -/
theorem initIsIdempotentOnTheShadows : Obligations.InitIsIdempotentOnTheShadows := by
  intro s a n b m h
  obtain ⟨hv, hidle, -⟩ := id h
  have hfirst := exec_init hv hidle a n
  have hcfg := (busInit_cfg (latch (.init a n) s)).trans (latch_cfg s _)
  have hshadow := busInit_shadow (latch (.init a n) s)
  have htrace := busInit_trace (latch (.init a n) s)
  have hrstctrl := busInit_rstctrl (latch (.init a n) s)
  have hrun := (busInit_run (latch (.init a n) s)).trans ((latch_run s _).trans hidle)
  generalize busInit (latch (.init a n) s) = t at *
  have hsecond := exec_init (hcfg.symm ▸ hv) hrun b m
  have hshadow' := busInit_shadow (latch (.init b m) t)
  have htrace' := busInit_trace (latch (.init b m) t)
  have hrstctrl' := busInit_rstctrl (latch (.init b m) t)
  generalize busInit (latch (.init b m) t) = u at *
  simp only [latch_cfg, latch_env, latch_trace, hcfg] at hshadow htrace hrstctrl hshadow' htrace' hrstctrl'
  rw [htrace, List.append_assoc] at htrace'
  refine ⟨t, u, _, hfirst, hsecond, hshadow'.trans hshadow.symm, htrace', rfl, ?_, fun hread => ?_⟩
  · rw [delayTotal_append, delayTotal_initEvents, delayTotal_initEvents]
  · rw [hcfg] at hread
    rw [hrstctrl', hread, hrstctrl, BitVec.and_assoc, BitVec.and_self]

/-! ### READ and WRITE are INIT and the MAPPER's transfer (R162, R164) -/

/-- Latching operands that stand there already writes the opcode only. -/
theorem latch_eq_withOp {i : Instr} {s : State} (haddr : s.work.addr = i.address) (hlen : s.work.len = i.length) :
    latch i s = s.withOp i.opcode := by
  rw [latch, ← haddr, ← hlen]
  rfl

/-- A command `j` after INIT starts from the state `i` with the same operands has after its BUS_INIT, but for the
opcode. -/
theorem latch_after_init {i j : Instr} (haddr : i.address = j.address) (hlen : i.length = j.length) (s : State) :
    latch j (busInit (latch (.init i.address i.length) s)) = (busInit (latch i s)).withOp j.opcode := by
  have hinit : latch (.init i.address i.length) s = (latch i s).withOp 0x00#8 := rfl
  have hgrown := busInit_grown (latch i s)
  rw [hinit, busInit_withOp,
    latch_eq_withOp (s := (busInit (latch i s)).withOp 0x00#8) (hgrown.addr.trans haddr) (hgrown.len.trans hlen)]
  rfl

/-- A command whose body is BUS_INIT and then that of `j`, which does not read the opcode, is INIT followed by `j`. -/
theorem exec_eq_init_then {i j : Instr} {s : State} (h : Accepts i s) (haddr : i.address = j.address)
    (hlen : i.length = j.length) (hwf : j.wellFormed s.cfg = true)
    (hbody : ∀ t, commandBody i t = commandBody j (busInit t))
    (hop : ∀ o t, commandBody j (t.withOp o) = (commandBody j t).withOp o)
    (hkept : ∀ t, Kept t (commandBody j t)) :
    ∃ t u v, exec (.init i.address i.length) s = .next u ∧ exec j u = .next v ∧ exec i s = .next t ∧
      t = v.withWork { v.work with op := i.opcode } := by
  obtain ⟨hv, hidle, -⟩ := id h
  have hinit : Accepts (.init i.address i.length) s := ⟨hv, hidle, rfl⟩
  have hkept' := hkept (busInit (latch i s))
  have hthen : exec j (busInit (latch (.init i.address i.length) s)) =
      .next ((commandBody j (busInit (latch i s))).withOp j.opcode) := by
    refine exec_body (accepts_after_busInit hinit hwf) ?_ ?_
    · rw [latch_after_init haddr hlen, hop]
    · exact hkept'.run.trans ((busInit_run _).trans (busInit_run _).symm)
  have hwhole : exec i s = .next (commandBody j (busInit (latch i s))) :=
    exec_body h (hbody _) (hkept'.run.trans (busInit_run _))
  have hopcode : (commandBody j (busInit (latch i s))).work.op = i.opcode := hkept'.op.trans (busInit_grown _).op
  exact ⟨_, _, _, exec_init hv hidle _ _, hthen, hwhole, (withWork_op_withOp hopcode _).symm⟩

/-- Settles O14, by `exec_eq_init_then`: EERD accepts the lengths READ accepts. -/
theorem readIsInitThenEerd : Obligations.ReadIsInitThenEerd := by
  intro s a n h
  obtain ⟨-, -, hwf⟩ := id h
  exact exec_eq_init_then (i := .read a n) (j := .eerd a n) h rfl rfl hwf (fun _ => rfl) eerd_withOp eerd_kept

/-- Settles O15, by `exec_eq_init_then`: the lengths WRITE accepts fit BUF, which is what EEWR asks. -/
theorem writeIsInitThenEewr : Obligations.WriteIsInitThenEewr := by
  intro s a n h
  obtain ⟨hv, -, hwf⟩ := id h
  have hfits : Instr.fitsBuf s.cfg n = true := (fitsBuf_iff s.cfg n).2 (length_fits hv (.inr hwf))
  exact exec_eq_init_then (i := .write a n) (j := .eewr a n) h rfl rfl hfits (fun _ => rfl) eewr_withOp eewr_kept

/-! ### What READ and WRITE emit after BUS_INIT (R162 to R165) -/

/-- Events `rest` after BUS_INIT are those of a command after its seven first. -/
theorem trace_after_busInit {i : Instr} {s t : State} {rest : List Event}
    (h : t.trace = (busInit (latch i s)).trace ++ rest) :
    t.trace = s.trace ++ (initEvents s.cfg (s.env.answer s.cfg .rstctrl).1 ++ rest) := by
  rw [h, busInit_trace, List.append_assoc]
  rfl

/-- Length 0 emits nothing (R136). -/
theorem eerd_zero_trace {s : State} (h : s.work.len = 0#32) : (eerd s).trace = s.trace := by
  rw [eerd_eq, slicedTransfer_zero _ _ h]
  rfl

/-- Settles O16: EERD's framing and its filling of BUF, from the state after BUS_INIT. -/
theorem readDecomposesAndFillsBuf : Obligations.ReadDecomposesAndFillsBuf := by
  intro s a n h
  have hcfg : (busInit (latch (.read a n) s)).cfg = s.cfg := busInit_cfg _
  have hbuf : ∀ k, (busInit (latch (.read a n) s)).bufByte k = s.bufByte k :=
    State.bufByte_congr (busInit_buf (latch (.read a n) s))
  obtain ⟨rest, ts, hfills⟩ := eerd_fills (busInit (latch (.read a n) s))
  obtain ⟨rest', ts', htrace, -, hcontrols, -⟩ := eerd_frames (hcfg.symm ▸ h.1)
  obtain rfl : rest' = rest := List.append_cancel_left (htrace.symm.trans hfills.trace)
  rw [hcfg] at hcontrols
  refine ⟨_, rest', exec_accepts h, trace_after_busInit htrace, hcontrols, fun hn => ?_, fun k hk => ?_,
    fun k _ => ?_⟩
  · have hquiet := eerd_zero_trace (s := busInit (latch (.read a n) s)) hn
    exact List.self_eq_append_right.1 (hquiet.symm.trans htrace)
  · exact (hfills.outside k (.inr ((Nat.zero_add _).trans_le hk))).trans (hbuf k)
  · exact hbuf k ▸ hfills.inside k

/-- Every delay is a framing event. -/
theorem delayTotal_controls (es : List Event) : delayTotal (controls es) = delayTotal es := by
  induction es with
  | nil => rfl
  | cons e es ih =>
    rcases e with ⟨_ | _ | _ | _ | _ | _ | _, v⟩ | ⟨r, v⟩ | n | _
    case delay => exact congrArg (n + ·) ih
    all_goals exact ih

theorem delayTotal_selectEvents (c : Config) (a : Word) : delayTotal (selectEvents c a) = 0 := by
  unfold selectEvents
  split <;> rfl

/-- One write-cycle delay for each `WriteAt` (R140). -/
theorem delayTotal_writeAtControls (c : Config) (ps : List Slice) :
    delayTotal (ps.flatMap (writeAtControls c)) = 5000 * ps.length := by
  induction ps with
  | nil => rfl
  | cons p ps ih =>
    have hslice : delayTotal (writeAtControls c p) = 5000 := by
      rw [writeAtControls, delayTotal_append, delayTotal_selectEvents]
      rfl
    rw [List.flatMap_cons, delayTotal_append, hslice, ih, List.length_cons, Nat.mul_succ, Nat.add_comm]

theorem byteSlices_length (a : Word) (n : Nat) : (byteSlices a n).length = n := by
  rw [byteSlices, List.length_map, List.length_range]

/-- Settles O17: WRITE's sizes are less than EEWR's page, so every slice is a single byte, with its delay. -/
theorem writeSendsSingleBytes : Obligations.WriteSendsSingleBytes := by
  intro s a n h
  obtain ⟨hv, -, hwf⟩ := id h
  have hcfg : (busInit (latch (.write a n) s)).cfg = s.cfg := busInit_cfg _
  have hfits : n.toNat ≤ s.cfg.bufSize := length_fits hv (.inr hwf)
  obtain ⟨rest, ts, htrace, -, hcontrols, -⟩ :=
    eewr_frames (s := busInit (latch (.write a n) s)) (hcfg.symm ▸ hv) (hcfg.symm ▸ hfits)
  have hbytes : controls rest = (byteSlices a n.toNat).flatMap (writeAtControls s.cfg) := by
    rw [← slices_of_lt (length_lt_of_legalWriteSize hwf), ← hcfg]
    exact hcontrols
  refine ⟨_, rest, exec_accepts h, trace_after_busInit htrace, hbytes, ?_, (eewr_buf _).trans (busInit_buf _)⟩
  rw [← delayTotal_controls, hbytes, delayTotal_writeAtControls, byteSlices_length]

/-! ### Who touches RSTCTRL, CONFIG and CLKDIV (R167) -/

/-- Not one of the accesses of BUS_INIT alone. -/
def Event.NotInitOnly (e : Event) : Prop := e.isInitOnly = false

theorem notInitOnly_sliceEvents (c : Config) : SliceEvents Event.NotInitOnly c :=
  ⟨fun _ => rfl, fun _ => rfl, fun _ => rfl, rfl, rfl, fun _ _ => rfl, rfl⟩

theorem eerd_notInitOnly (s : State) : Emits Event.NotInitOnly s (eerd s) :=
  eerd_emits (notInitOnly_sliceEvents _) rfl rfl rfl

theorem eewr_notInitOnly (s : State) : Emits Event.NotInitOnly s (eewr s) :=
  eewr_emits (notInitOnly_sliceEvents _) fun _ _ _ => rfl

/-- INIT, READ and WRITE, after BUS_INIT. -/
theorem commandBody_notInitOnly_after_busInit {i : Instr} (h : beginsWithInit i = true) (s : State) :
    Emits Event.NotInitOnly (busInit s) (commandBody i s) := by
  cases i with
  | init _ _ => exact .silent rfl rfl
  | read _ _ => exact eerd_notInitOnly _
  | write _ _ => exact eewr_notInitOnly _
  | dump _ _ | busw _ _ | busr _ _ | eerd _ _ | eerd1 _ _ | eewr _ _ => exact nomatch h

/-- The other six commands, from their start. -/
theorem commandBody_notInitOnly {i : Instr} (h : beginsWithInit i = false) (s : State) :
    Emits Event.NotInitOnly s (commandBody i s) := by
  cases i with
  | init _ _ | read _ _ | write _ _ => exact nomatch h
  | dump _ _ => exact emits_report (P := Event.NotInitOnly) rfl _
  | busw _ _ => exact busw_emits (P := Event.NotInitOnly) (fun _ => rfl) (fun _ => rfl) rfl _ _ rfl
  | busr _ _ => exact busr_emits (P := Event.NotInitOnly) (fun _ => rfl) (fun _ => rfl) rfl _ rfl _
  | eerd _ _ => exact eerd_notInitOnly _
  | eerd1 _ _ => exact eerd1_emits (notInitOnly_sliceEvents _) rfl rfl
  | eewr _ _ => exact eewr_notInitOnly _

/-- Settles O39, by whether the command begins with BUS_INIT. -/
theorem onlyDriverCommandsInitialise : Obligations.OnlyDriverCommandsInitialise := by
  intro i s h
  cases hbegin : beginsWithInit i with
  | true =>
    obtain ⟨rest, htrace, hrest, -⟩ := commandBody_notInitOnly_after_busInit hbegin (latch i s)
    exact ⟨_, _, exec_accepts h, trace_after_busInit htrace, fun _ => ⟨rest, rfl, hrest⟩, nofun⟩
  | false =>
    obtain ⟨evs, htrace, hevs, -⟩ := commandBody_notInitOnly hbegin (latch i s)
    exact ⟨_, evs, exec_accepts h, htrace, nofun, fun _ => hevs⟩

end Sys2Proof.Machine
end

section
/-! PROOFS. The least duration of each command (R104, R140, R221): the delays among its framing events. -/

namespace Sys2Proof.Machine

theorem delayTotal_of_controls {es cs : List Event} (h : controls es = cs) : delayTotal es = delayTotal cs :=
  h ▸ (delayTotal_controls es).symm

theorem delayTotal_readAtControls (c : Config) (ps : List Slice) :
    delayTotal (ps.flatMap (readAtControls c)) = 0 := by
  induction ps with
  | nil => rfl
  | cons p ps ih =>
    have hslice : delayTotal (readAtControls c p) = 0 := by
      rw [readAtControls, delayTotal_append, delayTotal_selectEvents]
      rfl
    rw [List.flatMap_cons, delayTotal_append, hslice, ih]

/-- Full blocks, then the tail byte by byte (R136, R141). -/
theorem slices_length (z : Nat) (a : Word) (n : Nat) : (slices z a n).length = n / z + n % z := by
  simp only [slices, List.length_append, List.length_map, List.length_range]

/-- The delays of BUS_INIT and of what follows it. -/
theorem delayTotal_after_busInit (c : Config) (v : Word) {rest : List Event} {d : Nat} (h : delayTotal rest = d) :
    delayTotal (initEvents c v ++ rest) = 500 + d := by
  rw [delayTotal_append, delayTotal_initEvents, h]

/-- Settles O38, by the framing events of each command. -/
theorem leastDelayOfEachCommand : Obligations.LeastDelayOfEachCommand := by
  intro i s h
  obtain ⟨hv, hidle, hwf⟩ := id h
  cases i with
  | init a n => exact ⟨_, _, exec_init hv hidle a n, busInit_trace _, rfl⟩
  | read a n =>
    obtain ⟨t, rest, hexec, htrace, hcontrols, -⟩ := readDecomposesAndFillsBuf s a n h
    have hrest : delayTotal rest = 0 := (delayTotal_of_controls hcontrols).trans (delayTotal_readAtControls _ _)
    exact ⟨t, _, hexec, htrace, delayTotal_after_busInit _ _ hrest⟩
  | write a n =>
    obtain ⟨t, rest, hexec, htrace, -, hrest, -⟩ := writeSendsSingleBytes s a n h
    exact ⟨t, _, hexec, htrace, delayTotal_after_busInit _ _ hrest⟩
  | dump a n => exact ⟨_, [.report], dumpOnlyReports s a n h, rfl, rfl⟩
  | busw a n =>
    obtain ⟨evs, -, htrace, -, hcontrols, -⟩ := busw_frames (s := latch (.busw a n) s) hv a 0#32
      ((fitsBuf_iff s.cfg n).1 hwf) (by simp [n.isLt])
    exact ⟨_, evs, exec_accepts h, htrace, delayTotal_of_controls hcontrols⟩
  | busr a n =>
    obtain ⟨evs, -, htrace, -, hcontrols, -⟩ := busr_frames 0#32 n (latch (.busr a n) s)
    exact ⟨_, evs, exec_accepts h, htrace, delayTotal_of_controls hcontrols⟩
  | eerd a n =>
    obtain ⟨t, evs, -, hexec, htrace, -, hcontrols, -⟩ := eerdDecomposes s a n h
    exact ⟨t, evs, hexec, htrace, (delayTotal_of_controls hcontrols).trans (delayTotal_readAtControls _ _)⟩
  | eerd1 a n =>
    obtain ⟨t, evs, -, hexec, htrace, -, hcontrols, -⟩ := eerd1Decomposes s a n h
    exact ⟨t, evs, hexec, htrace, (delayTotal_of_controls hcontrols).trans (delayTotal_readAtControls _ _)⟩
  | eewr a n =>
    obtain ⟨t, evs, -, hexec, htrace, -, hcontrols, -⟩ := eewrDecomposes s a n h
    refine ⟨t, evs, hexec, htrace, (delayTotal_of_controls hcontrols).trans ?_⟩
    rw [delayTotal_writeAtControls, slices_length]

end Sys2Proof.Machine
end
